-- ==== Sys2Proof/Word.lean ====
section
/-! DEFINITION. The machine's word types (spec 00_scope R7, R8): bytes, 16-bit words, 12-bit addresses, register numbers,
and the framebuffer as the 2048 bits of the port `fb` (40_step_cycle R100). -/

namespace Sys2Proof

/-- An 8-bit cell: a general register, a timer, a memory cell (10_state R21, R28, R31). -/
abbrev Byte := BitVec 8

/-- A 16-bit cell: the instruction word, I, pc, a stack slot (10_state R24, R25, R26). -/
abbrev Word := BitVec 16

/-- The address immediate nnn (30_encoding R71). -/
abbrev Addr12 := BitVec 12

/-- The number of a general register V0..VF, or of a key 0x0..0xF (10_state R21, R30). -/
abbrev RegIdx := Fin 16

/-- The 64x32 cells, cell j = x + 64*y being bit j (10_state R29; the level port `fb` of 40_step_cycle R100 is 2048 bits). -/
abbrev Framebuffer := BitVec 2048

end Sys2Proof
end

