-- ==== Sys2Proof/Machine/Flags.lean ====
section
/-! DEFINITION. The flag computations, each a byte for VF (10_state R22, 42_arithmetic R140). Operands are unsigned and the
comparisons are on the exact integers (00_scope R9). -/

namespace Sys2Proof.Machine

/-- A flag as the byte VF holds: 1 or 0. -/
def flagByte (b : Bool) : Byte := if b then 1#8 else 0#8

/-- 8xy4: carry, the unwrapped sum is above 255 (42_arithmetic R147). -/
def carryFlag (a b : Byte) : Byte := flagByte (decide (a.toNat + b.toNat > 255))

/-- 8xy5: 1 when a BORROW occurred, Vx < Vy (42_arithmetic R148). -/
def borrowFlag (vx vy : Byte) : Byte := flagByte (decide (vx.toNat < vy.toNat))

/-- 8xy7: 0 when Vx > Vy, else 1 (42_arithmetic R150). -/
def noBorrowFlag (vx vy : Byte) : Byte := flagByte (!decide (vx.toNat > vy.toNat))

/-- 8xy6: the bit shifted out, old bit 0 (42_arithmetic R149). -/
def shiftOutRight (a : Byte) : Byte := a &&& 1#8

/-- 8xyE: the bit shifted out, old bit 7 (42_arithmetic R151). -/
def shiftOutLeft (a : Byte) : Byte := (a >>> 7) &&& 1#8

/-- Fx1E: the unreduced sum is above 0xFFF (43_index_memory R171). -/
def indexFlag (i : Word) (a : Byte) : Byte := flagByte (decide (i.toNat + a.toNat > 0xFFF))

end Sys2Proof.Machine
end

