-- ==== Sys2Proof/Syntax.lean ====
section
/-! DEFINITION. The 34 instructions of spec/opcode_table.json (30_encoding R85), in the table's order, one constructor a
row. Operands are the fields of 30_encoding R71: `x`, `y` registers, `kk` a byte, `nnn` a 12-bit address, `n` a count. -/

namespace Sys2Proof

inductive Instr where
  /-- 00E0, clear the framebuffer (44_display R190). -/
  | cls
  /-- 00EE, return (41_control_flow R120). -/
  | ret
  /-- 1nnn, jump (R121). -/
  | jp (nnn : Addr12)
  /-- 2nnn, call (R122). -/
  | call (nnn : Addr12)
  /-- 3xkk, skip if Vx equals a byte (R123). -/
  | seByte (x : RegIdx) (kk : Byte)
  /-- 4xkk, skip if Vx differs from a byte (R124). -/
  | sneByte (x : RegIdx) (kk : Byte)
  /-- 5xy0, skip if Vx equals Vy (R125). -/
  | seReg (x y : RegIdx)
  /-- 9xy0, skip if Vx differs from Vy (R126). -/
  | sneReg (x y : RegIdx)
  /-- 6xkk, load a byte (42_arithmetic R141). -/
  | ldByte (x : RegIdx) (kk : Byte)
  /-- 7xkk, add a byte (R142). -/
  | addByte (x : RegIdx) (kk : Byte)
  /-- 8xy0, move (R143). -/
  | ldReg (x y : RegIdx)
  /-- 8xy1 (R144). -/
  | orReg (x y : RegIdx)
  /-- 8xy2 (R145). -/
  | andReg (x y : RegIdx)
  /-- 8xy3 (R146). -/
  | xorReg (x y : RegIdx)
  /-- 8xy4, add with carry out (R147). -/
  | addReg (x y : RegIdx)
  /-- 8xy5, subtract Vy from Vx (R148). -/
  | subReg (x y : RegIdx)
  /-- 8xy6, shift Vx right; y is decoded and not read (R149). -/
  | shr (x y : RegIdx)
  /-- 8xy7, subtract Vx from Vy (R150). -/
  | subn (x y : RegIdx)
  /-- 8xyE, shift Vx left; y is decoded and not read (R151). -/
  | shl (x y : RegIdx)
  /-- Annn, load I (43_index_memory R170). -/
  | ldI (nnn : Addr12)
  /-- Bnnn, jump to V0 + nnn (41_control_flow R127). -/
  | jpV0 (nnn : Addr12)
  /-- Cxkk, random byte masked (42_arithmetic R152). -/
  | rnd (x : RegIdx) (kk : Byte)
  /-- Dxyn, draw n rows at (Vx, Vy); n is a count, well-formed up to 15 (44_display R191). -/
  | drw (x y : RegIdx) (n : Nat)
  /-- Ex9E, skip if key Vx is pressed (45_input_timer R200). -/
  | skp (x : RegIdx)
  /-- ExA1, skip if key Vx is not pressed (R201). -/
  | sknp (x : RegIdx)
  /-- Fx07, read the delay timer (R202). -/
  | ldVxDt (x : RegIdx)
  /-- Fx0A, wait for a key (R203). -/
  | ldVxK (x : RegIdx)
  /-- Fx15, set the delay timer (R204). -/
  | ldDtVx (x : RegIdx)
  /-- Fx18, set the sound timer (R205). -/
  | ldStVx (x : RegIdx)
  /-- Fx1E, add Vx to I (43_index_memory R171). -/
  | addI (x : RegIdx)
  /-- Fx29, point I at a glyph (R172). -/
  | ldF (x : RegIdx)
  /-- Fx33, store decimal digits (R173). -/
  | ldB (x : RegIdx)
  /-- Fx55, store V0..Vx (R174). -/
  | ldMemVx (x : RegIdx)
  /-- Fx65, load V0..Vx (R175). -/
  | ldVxMem (x : RegIdx)
deriving DecidableEq, Repr

end Sys2Proof
end

