-- ==== Sys2Proof/Config.lean ====
section
/-! DEFINITION. The fixed sizes of 00_scope R7, and the two draws of 00_scope R14 as free values. The two parameters
GLYPH_TABLE and VF_ALIAS_MODE take their values in Machine/Params.lean. -/

namespace Sys2Proof.Config

/-- MEM_SIZE: addresses 0x000-0xFFF (00_scope R7, 20_memory R50). -/
def memSize : Nat := 0x1000

/-- STACK_DEPTH (00_scope R7, 10_state R26). -/
def stackDepth : Nat := 16

/-- FB_W times FB_H: the number of framebuffer cells (00_scope R7, 10_state R29). -/
def fbCells : Nat := 2048

/-- FB_W, the stride of a framebuffer row (00_scope R7, 10_state R29). -/
def fbWidth : Nat := 64

/-- PROG_BASE: where a program is loaded and where pc starts (00_scope R7, 70_reset_and_hazards R251). -/
def progBase : Nat := 0x200

/-- PROG_MAX: the longest program in bytes (00_scope R7, 70_reset_and_hazards R253). -/
def progMax : Nat := 3584

/-- RND, the draw of Cxkk (00_scope R14, 40_step_cycle R111): a FREE VALUE, no body, so a claim holds for every byte at
every draw. DESIGN CHOICE (the form of the draw), safe; log 3. -/
opaque rnd : Nat → Byte

/-- KEY_CHOICE, the draw of Fx0A (00_scope R14, 45_input_timer R203): a FREE VALUE, no body. The meaning of Fx0A takes it
modulo the number of pressed keys, so that it selects any pressed key and only a pressed one. DESIGN CHOICE (the form of
the draw), safe; log 4. -/
opaque keyChoice : Nat → Nat

/-- The two readings of 92_eei_decisions D2: does a later effect of one instruction read a register as it was at the start
of the step, or as an earlier effect left it (00_scope R7, R15). -/
inductive VfAliasMode where
  | snapshot
  | sequential
deriving DecidableEq, Repr

end Sys2Proof.Config
end

