-- ==== Sys2Proof/Machine/Params.lean ====
section
/-! DEFINITION. The values of the two parameters of 00_scope R7: VF_ALIAS_MODE and GLYPH_TABLE, each at the spec's default.
They stand here, in Machine/, so that a test of the hardware can correct them. -/

namespace Sys2Proof.Machine

/-- VF_ALIAS_MODE: the spec's default, snapshot (00_scope R15, 92_eei_decisions D2). It decides 8Fy6, 8FyE, DFyn and DxFn
only. DESIGN CHOICE, unsafe; log 6. -/
def vfAliasMode : Config.VfAliasMode := .snapshot

/-- Glyphs 0-7 of the default GLYPH_TABLE (20_memory R58). -/
def glyphTableLow : List Byte :=
  [0xF0#8, 0x90#8, 0x90#8, 0x90#8, 0xF0#8] ++ [0x20#8, 0x60#8, 0x20#8, 0x20#8, 0x70#8]
  ++ [0xF0#8, 0x10#8, 0xF0#8, 0x80#8, 0xF0#8] ++ [0xF0#8, 0x10#8, 0xF0#8, 0x10#8, 0xF0#8]
  ++ [0x90#8, 0x90#8, 0xF0#8, 0x10#8, 0x10#8] ++ [0xF0#8, 0x80#8, 0xF0#8, 0x10#8, 0xF0#8]
  ++ [0xF0#8, 0x80#8, 0xF0#8, 0x90#8, 0xF0#8] ++ [0xF0#8, 0x10#8, 0x20#8, 0x40#8, 0x40#8]

/-- Glyphs 8-F of the default GLYPH_TABLE (20_memory R58). -/
def glyphTableHigh : List Byte :=
  [0xF0#8, 0x90#8, 0xF0#8, 0x90#8, 0xF0#8] ++ [0xF0#8, 0x90#8, 0xF0#8, 0x10#8, 0xF0#8]
  ++ [0xF0#8, 0x90#8, 0xF0#8, 0x90#8, 0x90#8] ++ [0xE0#8, 0x90#8, 0xE0#8, 0x90#8, 0xE0#8]
  ++ [0xF0#8, 0x80#8, 0x80#8, 0x80#8, 0xF0#8] ++ [0xE0#8, 0x90#8, 0x90#8, 0x90#8, 0xE0#8]
  ++ [0xF0#8, 0x80#8, 0xF0#8, 0x80#8, 0xF0#8] ++ [0xF0#8, 0x80#8, 0xF0#8, 0x80#8, 0x80#8]

/-- GLYPH_TABLE: 16 glyphs of 5 bytes, glyph d at 5*d (20_memory R58, 92_eei_decisions D26). The bytes are the spec's
default, from general knowledge: PRESUMED, unsafe; log 7. A claim that rests on them names this definition. -/
def glyphTable : List Byte := glyphTableLow ++ glyphTableHigh

end Sys2Proof.Machine
end

