-- ==== Sys2Proof/Machine/State.lean ====
section
/-! DEFINITION. The state of the machine as plain data (10_state R20), its value after `initialize()` (R35), and the reason
types of a step. -/

namespace Sys2Proof.Machine

/-- The fault kinds of 60_exceptions R220. -/
inductive FaultKind where
  /-- Decode of an undefined word (R221). -/
  | decodeError
  /-- 2nnn with SP = 16 (R222). -/
  | stackOverflow
  /-- 00EE with SP = 0 (R222). -/
  | stackUnderflow
  /-- An access above 0xFFF: fetch, Dxyn, Fx33, Fx55, Fx65 (R223). -/
  | memOutOfRange
  /-- Dxyn with a set pixel's linear index above 2047 (R224). -/
  | fbOutOfRange
  /-- Ex9E or ExA1 with Vx above 15 (R225). -/
  | keyOutOfRange
deriving DecidableEq, Repr

/-- The fault record (60_exceptions R227). `pc` is the address of the offending instruction; `op` is the fetched word, none
when the fetch itself faulted; `info` is the column "recorded info" of R220: op, sp, addr or index. -/
structure FaultRecord where
  kind : FaultKind
  pc : Word
  op : Option Word
  info : Nat
deriving DecidableEq, Repr

/-- What a step returns (40_step_cycle R106). -/
inductive StepOutcome where
  /-- The instruction completed; its display-changed signal (R108). -/
  | done (displayChanged : Bool)
  /-- Fx0A found no key pressed (45_input_timer R203). -/
  | blocked
  /-- A fault in this step or an earlier one. -/
  | faulted (r : FaultRecord)
deriving DecidableEq, Repr

/-- Memory as (address, byte) pairs. The canonical form is `Memory.wf` and an unlisted address reads as
`Memory.unlisted` (Machine/Ops.lean); log 19. -/
abbrev Memory := List Host.Cell

/-- The state tuple of 10_state R20, and two fields of the model's own: `outcome` (log 2) and `draws` (log 5). -/
structure State where
  /-- V[0..15]; V[15] is VF (R21, R22). -/
  v : Vector Byte 16
  /-- I, the index register (R24). -/
  i : Word
  /-- The program counter: the address of the instruction being executed (R25). -/
  pc : Word
  /-- S[0..15], the call stack's slots (R26). -/
  stack : Vector Word 16
  /-- SP, the next free slot, 0..16 (R27). -/
  sp : Fin 17
  /-- DT, the delay timer (R28). -/
  dt : Byte
  /-- ST, the sound timer (R28). -/
  st : Byte
  /-- FB[0..2047], bit j being cell j (R29). -/
  fb : Framebuffer
  /-- K[0..15], true when pressed; the host writes it between steps (R30). -/
  keys : Vector Bool 16
  /-- Mem[0..4095] (R31). -/
  mem : Memory
  /-- none while running, else the record of the first fault (R33). -/
  halted : Option FaultRecord
  /-- THE MODEL'S OWN: what the last step returned (40_step_cycle R106); none before the first step. -/
  outcome : Option StepOutcome
  /-- THE MODEL'S OWN: how many free values (`Config.rnd`, `Config.keyChoice`) have been drawn (00_scope R14). -/
  draws : Nat
deriving DecidableEq, Repr

/-- The model's fault outcome has NO constructor: every fault the spec names is a halt, which is a state (`halted`) that the
step enters and stays in (60_exceptions R228, R229), so no step and no meaning stops with one. Nobody raises it; safe.
Log 1. -/
inductive Fault where
deriving DecidableEq, Repr

/-- Why a step would have no meaning. -/
inductive Refusal where
  /-- An arm of `exec` without a meaning. Every instruction has its meaning, so nobody raises it; safe. -/
  | notModelled (mnemonic : String)
deriving DecidableEq, Repr

/-- The state after `initialize()` (10_state R35, 70_reset_and_hazards R250). Memory lists nothing: an unlisted address
reads as the glyph table below 0x050 and as 0 above. `outcome` none and `draws` 0 are DESIGN CHOICES (logs 2 and 5). -/
def State.reset : State where
  v := Vector.replicate 16 0#8
  i := 0#16
  pc := 0x200#16
  stack := Vector.replicate 16 0#16
  sp := 0
  dt := 0#8
  st := 0#8
  fb := 0#2048
  keys := Vector.replicate 16 false
  mem := []
  halted := none
  outcome := none
  draws := 0

end Sys2Proof.Machine
end

