-- ==== Sys2Proof/Machine/Ops.lean ====
section
/-! DEFINITION. The named operations: memory, registers, stack, timers, the end of an instruction, taking a fault and the
end of a step. -/

namespace Sys2Proof.Machine

/-! ### Memory (spec/20_memory.md) -/

/-- What an address that the list does not hold reads as: the contents `initialize()` leaves, the glyph table at
0x000-0x04F and 0 above (10_state R35, 20_memory R53, R58). -/
def Memory.unlisted (a : Nat) : Byte := glyphTable.getD a 0#8

/-- The byte at an address, with no range check (20_memory R57). -/
def Memory.read : Memory → Nat → Byte
  | [], a => Memory.unlisted a
  | (b, w) :: m, a => if b = a then w else Memory.read m a

/-- Every entry but those of address `a`. -/
def Memory.remove (m : Memory) (a : Nat) : Memory := m.filter (fun c => c.1 != a)

/-- Put an entry before the first entry of a higher address. -/
def Memory.insert : Memory → Nat → Byte → Memory
  | [], a, w => [(a, w)]
  | (b, u) :: m, a, w => if a < b then (a, w) :: (b, u) :: m else (b, u) :: Memory.insert m a w

/-- Write one byte, with no range check, keeping the canonical form: the value an unlisted address reads as is not listed
(20_memory R57). -/
def Memory.write (m : Memory) (a : Nat) (w : Byte) : Memory :=
  if w = Memory.unlisted a then m.remove a else (m.remove a).insert a w

/-- The canonical form: addresses strictly rising and inside 0x000-0xFFF, and no entry equal to what an unlisted address
reads as. -/
def Memory.wf (m : Memory) : Bool :=
  decide (m.Pairwise (fun c d => c.1 < d.1)) &&
    m.all (fun c => decide (c.1 < Config.memSize) && (c.2 != Memory.unlisted c.1))

/-- Write bytes at rising addresses from `a` (20_memory R54). -/
def Memory.writeList : Memory → Nat → List Byte → Memory
  | m, _, [] => m
  | m, a, w :: ws => Memory.writeList (m.write a w) (a + 1) ws

/-- `MemRead(a, 1)`: the byte, or the address that raises MemOutOfRange (20_memory R52). -/
def State.memRead (s : State) (a : Nat) : Except Nat Byte :=
  if a > 0xFFF then .error a else .ok (s.mem.read a)

/-- The range check of an access to every address `I .. I + last`: none when all lie in 0x000-0xFFF, else the first that
does not, `max(I, 0x1000)` (43_index_memory R173-R175). -/
def State.rangeFault (s : State) (last : Nat) : Option Nat :=
  if s.i.toNat + last > 0xFFF then some (max s.i.toNat 0x1000) else none

/-! ### Registers, stack, timers (spec/10_state.md) -/

/-- `V[x]` (R21): no register is hardwired. -/
def State.reg (s : State) (x : RegIdx) : Byte := s.v[x]

/-- `V[x] <- w` (R21). -/
def State.setReg (s : State) (x : RegIdx) (w : Byte) : State := { s with v := s.v.set x w }

/-- `I <- w` (R24). -/
def State.setI (s : State) (w : Word) : State := { s with i := w }

/-- `pc <- target` (R25, 40_step_cycle R114). -/
def State.jump (s : State) (target : Word) : State := { s with pc := target }

/-- `pc <- trunc_16(pc + k)` (40_step_cycle R112, R114). -/
def State.advance (s : State) (k : Word) : State := { s with pc := s.pc + k }

/-- `S[SP] <- w; SP <- SP + 1`, for SP below 16 (R26, R27, 41_control_flow R122). -/
def State.push (s : State) (h : s.sp.val < 16) (w : Word) : State :=
  { s with stack := s.stack.set s.sp.val w, sp := ⟨s.sp.val + 1, by omega⟩ }

/-- `SP <- SP - 1`; the slot keeps its value (R26, R27, 41_control_flow R120). -/
def State.pop (s : State) : State := { s with sp := ⟨s.sp.val - 1, by omega⟩ }

/-- `DT <- w` (R28). -/
def State.setDt (s : State) (w : Byte) : State := { s with dt := w }

/-- `ST <- w` (R28). -/
def State.setSt (s : State) (w : Byte) : State := { s with st := w }

/-- `FB <- f` (R29). -/
def State.setFb (s : State) (f : Framebuffer) : State := { s with fb := f }

/-- `Mem <- m` (R31). -/
def State.setMem (s : State) (m : Memory) : State := { s with mem := m }

/-- `K <- k`, the host's write (R30, 40_step_cycle R110). -/
def State.setKeys (s : State) (k : Vector Bool 16) : State := { s with keys := k }

/-- Use up one free value (00_scope R14, log 5). -/
def State.takeDraw (s : State) : State := { s with draws := s.draws + 1 }

/-- Record what the step returns (40_step_cycle R106, log 2). -/
def State.setOutcome (s : State) (o : StepOutcome) : State := { s with outcome := some o }

/-! ### The end of an instruction (40_step_cycle R105, R106) -/

/-- The instruction completed, with its display-changed signal (R108). -/
def complete (displayChanged : Bool) (s : State) : Host.Outcome State Fault Refusal :=
  .next (s.setOutcome (.done displayChanged))

/-- Fx0A found no key: nothing is written (R106, 45_input_timer R203). -/
def block (s : State) : Host.Outcome State Fault Refusal := .next (s.setOutcome .blocked)

/-- TAKING A FAULT (60_exceptions R227, R228; 40_step_cycle R113): the record saves the kind, the pc of the offending
instruction, the fetched word and the info; nothing else of the state changes, and the step returns Faulted. There is no
handler, no vector and no return from it (R228, R229): only `initialize` clears `halted` (Machine/Interface.lean). -/
def State.enterFault (s : State) (kind : FaultKind) (op : Option Word) (info : Nat) : State :=
  { s with
    halted := some { kind := kind, pc := s.pc, op := op, info := info }
    outcome := some (.faulted { kind := kind, pc := s.pc, op := op, info := info }) }

/-- `raise kind(info)` in the rule of instruction `i` (00_scope R13): a next state. The recorded op is the instruction's
word, which is the fetched word since decoding drops no bit (log 20). -/
def raise (kind : FaultKind) (i : Instr) (info : Nat) (s : State) : Host.Outcome State Fault Refusal :=
  .next (s.enterFault kind (some (encode i)) info)

/-- A step of a halted core changes nothing and returns the same record (40_step_cycle R102, 60_exceptions R229). -/
def State.stayHalted (s : State) (r : FaultRecord) : State := s.setOutcome (.faulted r)

/-! ### The end of a step (40_step_cycle R107, R109) -/

/-- One tick of a timer: a zero timer stays 0 (R107). -/
def tickByte (t : Byte) : Byte := if t = 0#8 then 0#8 else t - 1#8

/-- The timer tick (R107). -/
def State.tick (s : State) : State := { s with dt := tickByte s.dt, st := tickByte s.st }

/-- After the instruction: tick when it completed, not when it blocked or faulted (R107, R109, R113). -/
def State.finish (s : State) : State :=
  match s.outcome with
  | some (.done _) => s.tick
  | some .blocked => s
  | some (.faulted _) => s
  | none => s

/-- The same over the outcome of `exec`. -/
def finishStep : Host.Outcome State Fault Refusal → Host.Outcome State Fault Refusal
  | .next s => .next s.finish
  | .fault r => .fault r
  | .refused r => .refused r

end Sys2Proof.Machine
end

