-- ==== Sys2Proof/Machine/Operands.lean ====
section
/-! DEFINITION. The operand forms: immediates (30_encoding R72), the second-effect read of 92_eei_decisions D2, skips, the
index-plus-offset memory operands (43_index_memory R176), decimal digits, the key operands and the sprite (44_display). -/

namespace Sys2Proof.Machine

/-- `zext_16(nnn)` (30_encoding R72). -/
def zextAddr (nnn : Addr12) : Word := nnn.setWidth 16

/-- What a later effect of one instruction reads from register x: in snapshot mode the state at the start of the step, in
sequential mode the state earlier effects left (00_scope R15, 92_eei_decisions D2). -/
def laterRead (mode : Config.VfAliasMode) (atStart now : State) (x : RegIdx) : Byte :=
  match mode with
  | .snapshot => atStart.reg x
  | .sequential => now.reg x

/-- A skip: pc + 4 when the test holds, pc + 2 when not (41_control_flow R123-R126, R128). -/
def State.skipIf (s : State) (test : Bool) : State := if test then s.advance 4#16 else s.advance 2#16

/-- `V[0], .., V[x]`, the registers of Fx55 and Fx65 in transfer order (43_index_memory R174, R175). -/
def regsUpTo (x : RegIdx) : List RegIdx := (List.finRange 16).filter (fun k => decide (k.val ≤ x.val))

/-- The bytes Fx55 stores: `V[0], .., V[x]` (R174). -/
def State.regBytes (s : State) (x : RegIdx) : List Byte := (regsUpTo x).map s.reg

/-- `V[i] <- MemRead(I + i, 1)` for each register of the list, after the range check (R175). -/
def State.loadRegs (s : State) (ks : List RegIdx) : State :=
  { s with v := ks.foldl (fun v (k : RegIdx) => v.set k.val (s.mem.read (s.i.toNat + k.val))) s.v }

/-- The decimal digits of Fx33, hundreds, tens, ones (R173). -/
def decimalDigits (w : Byte) : List Byte :=
  [BitVec.ofNat 8 (w.toNat / 100), BitVec.ofNat 8 (w.toNat / 10 % 10), BitVec.ofNat 8 (w.toNat % 10)]

/-- The key a register value names: none above 15 (45_input_timer R200, R201). -/
def keyIndex (w : Byte) : Option RegIdx := if h : w.toNat < 16 then some ⟨w.toNat, h⟩ else none

/-- `K[k]` (10_state R30). -/
def State.key (s : State) (k : RegIdx) : Bool := s.keys[k]

/-- The pressed keys, lowest first (45_input_timer R203). -/
def State.pressedKeys (s : State) : List RegIdx := (List.finRange 16).filter s.key

/-- `keypick`: one of the keys `k :: ks`, chosen by the draw `d`; every one of them is the choice of some draw
(00_scope R14, 45_input_timer R203). -/
def pickKey (d : Nat) (k : RegIdx) (ks : List RegIdx) : RegIdx := (k :: ks).getD (d % (k :: ks).length) k

/-! ### The sprite of Dxyn (44_display R191, R192) -/

/-- The linear indices of the set bits of one sprite row, in column order: column col is bit 7 - col (R192), its index
`(X + col) + (Y + row) * 64` with no wrap and no clamp (R191). -/
def spriteCells (b : Byte) (x y row : Nat) : List Nat :=
  ((List.range 8).filter (fun col => b.getLsbD (7 - col))).map (fun col => (x + col) + (y + row) * Config.fbWidth)

/-- The checks of one row: first its memory read, then its set pixels in column order (R191, 60_exceptions R230). -/
def State.scanRow (s : State) (x y row : Nat) : Except (FaultKind × Nat) (List Nat) :=
  match s.memRead (s.i.toNat + row) with
  | .error a => .error (.memOutOfRange, a)
  | .ok b =>
    match (spriteCells b x y row).find? (fun j => decide (Config.fbCells ≤ j)) with
    | some j => .error (.fbOutOfRange, j)
    | none => .ok (spriteCells b x y row)

/-- The check phase over the rows in order: the first failing check, or every cell to draw in row-major order (R191). -/
def State.scanRows (s : State) (x y : Nat) : List Nat → Except (FaultKind × Nat) (List Nat)
  | [] => .ok []
  | row :: rows =>
    match s.scanRow x y row with
    | .error e => .error e
    | .ok cells =>
      match State.scanRows s x y rows with
      | .error e => .error e
      | .ok more => .ok (cells ++ more)

/-- One pixel of the write phase: note a collision, then flip the cell (R191). -/
def drawCell (acc : Framebuffer × Bool) (j : Nat) : Framebuffer × Bool :=
  (acc.1 ^^^ BitVec.twoPow 2048 j, acc.2 || acc.1.getLsbD j)

/-- The write phase: the framebuffer after, and whether a set bit fell on a cell that was on (R191). -/
def drawCells (f : Framebuffer) (cells : List Nat) : Framebuffer × Bool := cells.foldl drawCell (f, false)

end Sys2Proof.Machine
end

