-- ==== Sys2Proof/Machine/Arith.lean ====
section
/-! DEFINITION. The meanings of the register loads, arithmetic, logic, shifts and random (spec/42_arithmetic.md). Operands
are read from the state at the start; the writes stand in the rule's order, the last to a register winning (00_scope R15). -/

namespace Sys2Proof.Machine

/-- `V[x] <- w`, pc + 2: the shape of the instructions that write no flag (R141-R146). -/
def writeReg (x : RegIdx) (w : Byte) (s : State) : Host.Outcome State Fault Refusal :=
  complete false ((s.setReg x w).advance 2#16)

/-- `V[x] <- w`, then `V[15] <- flag`, pc + 2: the shape of 8xy4, 8xy5 and 8xy7 (R147, R148, R150). -/
def writeRegFlag (x : RegIdx) (w flag : Byte) (s : State) : Host.Outcome State Fault Refusal :=
  complete false (((s.setReg x w).setReg 15 flag).advance 2#16)

/-- `V[15] <- flag`, then `V[x] <- shift V[x]`, pc + 2: the shape of 8xy6 and 8xyE, with the mode that decides which V[x]
the second effect reads (R149, R151). -/
def shiftReg (mode : Config.VfAliasMode) (x : RegIdx) (flag : Byte) (shift : Byte → Byte) (s : State) :
    Host.Outcome State Fault Refusal :=
  complete false (((s.setReg 15 flag).setReg x (shift (laterRead mode s (s.setReg 15 flag) x))).advance 2#16)

/-- 6xkk (R141). -/
def execLdByte (x : RegIdx) (kk : Byte) (s : State) : Host.Outcome State Fault Refusal :=
  writeReg x kk s

/-- 7xkk (R142): wraps modulo 256, no flag. -/
def execAddByte (x : RegIdx) (kk : Byte) (s : State) : Host.Outcome State Fault Refusal :=
  writeReg x (s.reg x + kk) s

/-- 8xy0 (R143). -/
def execLdReg (x y : RegIdx) (s : State) : Host.Outcome State Fault Refusal :=
  writeReg x (s.reg y) s

/-- 8xy1 (R144). -/
def execOrReg (x y : RegIdx) (s : State) : Host.Outcome State Fault Refusal :=
  writeReg x (s.reg x ||| s.reg y) s

/-- 8xy2 (R145). -/
def execAndReg (x y : RegIdx) (s : State) : Host.Outcome State Fault Refusal :=
  writeReg x (s.reg x &&& s.reg y) s

/-- 8xy3 (R146). -/
def execXorReg (x y : RegIdx) (s : State) : Host.Outcome State Fault Refusal :=
  writeReg x (s.reg x ^^^ s.reg y) s

/-- 8xy4 (R147): VF ends as the carry. -/
def execAddReg (x y : RegIdx) (s : State) : Host.Outcome State Fault Refusal :=
  writeRegFlag x (s.reg x + s.reg y) (carryFlag (s.reg x) (s.reg y)) s

/-- 8xy5 (R148): VF ends as 1 when a borrow occurred. -/
def execSubReg (x y : RegIdx) (s : State) : Host.Outcome State Fault Refusal :=
  writeRegFlag x (s.reg x - s.reg y) (borrowFlag (s.reg x) (s.reg y)) s

/-- 8xy6 (R149), in a given reading of 92_eei_decisions D2; y is not read. -/
def execShrIn (mode : Config.VfAliasMode) (x : RegIdx) (s : State) : Host.Outcome State Fault Refusal :=
  shiftReg mode x (shiftOutRight (s.reg x)) (fun w => w >>> 1) s

/-- 8xy6 (R149). -/
def execShr (x _y : RegIdx) (s : State) : Host.Outcome State Fault Refusal :=
  execShrIn vfAliasMode x s

/-- 8xy7 (R150): VF ends as 1 when no borrow occurred. -/
def execSubn (x y : RegIdx) (s : State) : Host.Outcome State Fault Refusal :=
  writeRegFlag x (s.reg y - s.reg x) (noBorrowFlag (s.reg x) (s.reg y)) s

/-- 8xyE (R151), in a given reading of 92_eei_decisions D2; y is not read. -/
def execShlIn (mode : Config.VfAliasMode) (x : RegIdx) (s : State) : Host.Outcome State Fault Refusal :=
  shiftReg mode x (shiftOutLeft (s.reg x)) (fun w => w <<< 1) s

/-- 8xyE (R151). -/
def execShl (x _y : RegIdx) (s : State) : Host.Outcome State Fault Refusal :=
  execShlIn vfAliasMode x s

/-- Cxkk (R152): the step's draw, a free value, masked. -/
def execRnd (x : RegIdx) (kk : Byte) (s : State) : Host.Outcome State Fault Refusal :=
  writeReg x (Config.rnd s.draws &&& kk) s.takeDraw

end Sys2Proof.Machine
end

