-- ==== Sys2Proof/Machine/Control.lean ====
section
/-! DEFINITION. The meanings of the control-transfer instructions (spec/41_control_flow.md). The timer tick is the step's
(40_step_cycle R107), not theirs. -/

namespace Sys2Proof.Machine

/-- 00EE (R120): StackUnderflow at SP = 0; else pop, and resume after the call the slot names. -/
def execRet (s : State) : Host.Outcome State Fault Refusal :=
  if h : s.sp.val = 0 then raise .stackUnderflow .ret 0 s
  else complete false (s.pop.jump (s.stack[s.sp.val - 1] + 2#16))

/-- 1nnn (R121). -/
def execJp (nnn : Addr12) (s : State) : Host.Outcome State Fault Refusal :=
  complete false (s.jump (zextAddr nnn))

/-- 2nnn (R122): StackOverflow at SP = 16; else push the address of the call itself and jump. -/
def execCall (nnn : Addr12) (s : State) : Host.Outcome State Fault Refusal :=
  if h : s.sp.val < 16 then complete false ((s.push h s.pc).jump (zextAddr nnn))
  else raise .stackOverflow (.call nnn) 16 s

/-- 3xkk (R123). -/
def execSeByte (x : RegIdx) (kk : Byte) (s : State) : Host.Outcome State Fault Refusal :=
  complete false (s.skipIf (s.reg x == kk))

/-- 4xkk (R124). -/
def execSneByte (x : RegIdx) (kk : Byte) (s : State) : Host.Outcome State Fault Refusal :=
  complete false (s.skipIf (s.reg x != kk))

/-- 5xy0 (R125). -/
def execSeReg (x y : RegIdx) (s : State) : Host.Outcome State Fault Refusal :=
  complete false (s.skipIf (s.reg x == s.reg y))

/-- 9xy0 (R126). -/
def execSneReg (x y : RegIdx) (s : State) : Host.Outcome State Fault Refusal :=
  complete false (s.skipIf (s.reg x != s.reg y))

/-- Bnnn (R127): the register is always V0, and the sum is not reduced to 12 bits. -/
def execJpV0 (nnn : Addr12) (s : State) : Host.Outcome State Fault Refusal :=
  complete false (s.jump ((s.reg 0).setWidth 16 + zextAddr nnn))

end Sys2Proof.Machine
end

