-- ==== Sys2Proof/Machine/Display.lean ====
section
/-! DEFINITION. The meanings of the two display instructions (spec/44_display.md), the only ones whose completion sets
display_changed (40_step_cycle R108). -/

namespace Sys2Proof.Machine

/-- 00E0 (R190). -/
def execCls (s : State) : Host.Outcome State Fault Refusal :=
  complete true ((s.setFb 0#2048).advance 2#16)

/-- Dxyn (R191), in a given reading of 92_eei_decisions D2: the coordinates are read after `V[15] <- 0` in sequential mode.
The check phase precedes every write; then VF is the collision flag and the cells are flipped. -/
def execDrwIn (mode : Config.VfAliasMode) (x y : RegIdx) (n : Nat) (s : State) : Host.Outcome State Fault Refusal :=
  match s.scanRows (laterRead mode s (s.setReg 15 0#8) x).toNat (laterRead mode s (s.setReg 15 0#8) y).toNat
      (List.range n) with
  | .error e => raise e.1 (.drw x y n) e.2 s
  | .ok cells =>
    complete true (((s.setFb (drawCells s.fb cells).1).setReg 15 (flagByte (drawCells s.fb cells).2)).advance 2#16)

/-- Dxyn (R191). -/
def execDrw (x y : RegIdx) (n : Nat) (s : State) : Host.Outcome State Fault Refusal :=
  execDrwIn vfAliasMode x y n s

end Sys2Proof.Machine
end

