-- ==== Sys2Proof/Machine/Index.lean ====
section
/-! DEFINITION. The meanings of the index-register and memory instructions (spec/43_index_memory.md). A range is checked
whole before any write (40_step_cycle R113). -/

namespace Sys2Proof.Machine

/-- Annn (R170). -/
def execLdI (nnn : Addr12) (s : State) : Host.Outcome State Fault Refusal :=
  complete false ((s.setI (zextAddr nnn)).advance 2#16)

/-- Fx1E (R171): I is kept modulo 2^16, and VF says whether the unreduced sum is above 0xFFF. -/
def execAddI (x : RegIdx) (s : State) : Host.Outcome State Fault Refusal :=
  complete false (((s.setI (s.i + (s.reg x).setWidth 16)).setReg 15 (indexFlag s.i (s.reg x))).advance 2#16)

/-- Fx29 (R172): the product is exact, and Vx is not masked. -/
def execLdF (x : RegIdx) (s : State) : Host.Outcome State Fault Refusal :=
  complete false ((s.setI (BitVec.ofNat 16 ((s.reg x).toNat * 5))).advance 2#16)

/-- Fx33 (R173). -/
def execLdB (x : RegIdx) (s : State) : Host.Outcome State Fault Refusal :=
  match s.rangeFault 2 with
  | some a => raise .memOutOfRange (.ldB x) a s
  | none => complete false ((s.setMem (s.mem.writeList s.i.toNat (decimalDigits (s.reg x)))).advance 2#16)

/-- Fx55 (R174): I is left just past the last byte stored. -/
def execLdMemVx (x : RegIdx) (s : State) : Host.Outcome State Fault Refusal :=
  match s.rangeFault x.val with
  | some a => raise .memOutOfRange (.ldMemVx x) a s
  | none =>
    complete false (((s.setMem (s.mem.writeList s.i.toNat (s.regBytes x))).setI
      (BitVec.ofNat 16 (s.i.toNat + x.val + 1))).advance 2#16)

/-- Fx65 (R175): I is left just past the last byte loaded. -/
def execLdVxMem (x : RegIdx) (s : State) : Host.Outcome State Fault Refusal :=
  match s.rangeFault x.val with
  | some a => raise .memOutOfRange (.ldVxMem x) a s
  | none =>
    complete false (((s.loadRegs (regsUpTo x)).setI (BitVec.ofNat 16 (s.i.toNat + x.val + 1))).advance 2#16)

end Sys2Proof.Machine
end

