-- ==== Sys2Proof/Machine/Keypad.lean ====
section
/-! DEFINITION. The meanings of the keypad and timer instructions (spec/45_input_timer.md). Keys are levels as the host wrote
them before the step (40_step_cycle R110). -/

namespace Sys2Proof.Machine

/-- Ex9E (R200). -/
def execSkp (x : RegIdx) (s : State) : Host.Outcome State Fault Refusal :=
  match keyIndex (s.reg x) with
  | none => raise .keyOutOfRange (.skp x) (s.reg x).toNat s
  | some k => complete false (s.skipIf (s.key k))

/-- ExA1 (R201). -/
def execSknp (x : RegIdx) (s : State) : Host.Outcome State Fault Refusal :=
  match keyIndex (s.reg x) with
  | none => raise .keyOutOfRange (.sknp x) (s.reg x).toNat s
  | some k => complete false (s.skipIf (!s.key k))

/-- Fx07 (R202): DT before this step's tick. -/
def execLdVxDt (x : RegIdx) (s : State) : Host.Outcome State Fault Refusal :=
  complete false ((s.setReg x s.dt).advance 2#16)

/-- Fx0A (R203): with no key pressed the step blocks and writes nothing; else Vx is a pressed key, which one being the
step's draw, a free value. -/
def execLdVxK (x : RegIdx) (s : State) : Host.Outcome State Fault Refusal :=
  match s.pressedKeys with
  | [] => block s
  | k :: ks =>
    complete false ((s.takeDraw.setReg x (BitVec.ofNat 8 (pickKey (Config.keyChoice s.draws) k ks).val)).advance 2#16)

/-- Fx15 (R204); the tick of the same step follows. -/
def execLdDtVx (x : RegIdx) (s : State) : Host.Outcome State Fault Refusal :=
  complete false ((s.setDt (s.reg x)).advance 2#16)

/-- Fx18 (R205); the tick of the same step follows. -/
def execLdStVx (x : RegIdx) (s : State) : Host.Outcome State Fault Refusal :=
  complete false ((s.setSt (s.reg x)).advance 2#16)

end Sys2Proof.Machine
end

