-- ==== Sys2Proof/Machine/Fetch.lean ====
section
/-! DEFINITION. The phases of a step before the instruction: the halted check, the fetch and the decode
(40_step_cycle R102-R104, R109), and placing an instruction where the fetch reads it. -/

namespace Sys2Proof.Machine

/-- The fetch (R103): two byte reads at pc and pc + 1, high byte first, with no alignment rule; an error is the first
address above 0xFFF. It changes nothing. -/
def State.fetchWord (s : State) : Except Nat Word :=
  match s.memRead s.pc.toNat with
  | .error a => .error a
  | .ok hi =>
    match s.memRead (s.pc.toNat + 1) with
    | .error a => .error a
    | .ok lo => .ok (composeWord hi lo)

/-- The instruction this step executes, or the state the step ends in without executing one (R102, R103, R104, R109). The
order of the checks is that of 60_exceptions R230. -/
def State.fetchDecode (s : State) : Except State Instr :=
  match s.halted with
  | some r => .error (s.stayHalted r)
  | none =>
    match s.fetchWord with
    | .error a => .error (s.enterFault .memOutOfRange none a)
    | .ok op =>
      match decodeWord op with
      | .error _ => .error (s.enterFault .decodeError (some op) op.toNat)
      | .ok i => .ok i

/-- Put a 16-bit word where the next step fetches it, high byte first, on a core that is not halted (log 21). -/
def State.placeWord (s : State) (op : Word) : State :=
  { s with mem := s.mem.writeList s.pc.toNat (wordBytes op), halted := none }

end Sys2Proof.Machine
end

