-- ==== Sys2Proof/Machine/Step.lean ====
section
/-! DEFINITION. One step (40_step_cycle R109): halted check, fetch, decode, execute, tick. -/

namespace Sys2Proof.Machine

/-- `step()`: a step that executes no instruction (halted core, fetch fault, decode fault) ends in the state
`State.fetchDecode` gives; else the instruction runs and the timers tick if it completed. -/
def step (s : State) : Host.Outcome State Fault Refusal :=
  match s.fetchDecode with
  | .error t => .next t
  | .ok i => finishStep (exec i s)

/-- `s` with the instruction whose bits are `w` (numbered as spec/opcode_table.json numbers them, those at `nbits` and above
being 0) stored where `step` fetches its next instruction. A program comes to run by the host's load, for which this
stands (log 21). -/
def State.withFetchWord (s : State) (nbits w : Nat) : State :=
  s.placeWord (BitVec.ofNat 16 (w % 2 ^ nbits))

end Sys2Proof.Machine
end

