-- ==== Sys2Proof/Machine/Interface.lean ====
section
/-! DEFINITION. The host's operations and the output ports (40_step_cycle R100). The host calls them one at a time, between
steps (20_memory R65); none is part of a step. -/

namespace Sys2Proof.Machine

/-- The results of a failed load (60_exceptions R226). -/
inductive LoadError where
  /-- More than 3584 bytes (70_reset_and_hazards R253). -/
  | programTooLarge
  /-- The host could not read the whole file (R254). -/
  | ioError
deriving DecidableEq, Repr

/-- `init`: every element at its reset value, on any state, halted or not (70_reset_and_hazards R250). The count of draws is
no element of the core: it goes on, so that no draw is used twice (log 5). -/
def State.initialize (s : State) : State := { State.reset with draws := s.draws }

/-- `load`: the bytes at 0x200 and up, all other state unchanged; nothing written when there are too many (R252, R253). -/
def State.loadProgram (s : State) (bytes : List Byte) : Except LoadError State :=
  if bytes.length > Config.progMax then .error .programTooLarge
  else .ok (s.setMem (s.mem.writeList Config.progBase bytes))

/-- The host's load from a file: a short read hands over no bytes and changes nothing (R254, log 32). -/
def State.loadFile (s : State) (contents : Option (List Byte)) : Except LoadError State :=
  match contents with
  | none => .error .ioError
  | some bytes => s.loadProgram bytes

/-- What the host does between two steps (R65, R100). -/
inductive HostOp where
  | init
  | load (contents : Option (List Byte))
  | keys (k : Vector Bool 16)
deriving DecidableEq, Repr

/-- The state after a host operation; a failed load leaves it as it was (R253, R254). -/
def State.applyHost (s : State) : HostOp → State
  | .init => s.initialize
  | .load contents =>
    match s.loadFile contents with
    | .ok t => t
    | .error _ => s
  | .keys k => s.setKeys k

/-! ### A run: the host writes the keys, the core steps (70_reset_and_hazards R255, R261) -/

/-- The state a step ends in; every step ends in one (40_step_cycle R106), so the other arms keep the state and are never
taken. -/
def State.stepNext (s : State) : State :=
  match step s with
  | .next t => t
  | .fault _ => s
  | .refused _ => s

/-- The state after as many steps as there are keymaps in the list, the host writing each keymap before its step (R255,
40_step_cycle R110). -/
def State.runKeys (s : State) : List (Vector Bool 16) → State
  | [] => s
  | k :: ks => (s.setKeys k).stepNext.runKeys ks

/-! ### Output ports (40_step_cycle R100) -/

/-- `fb`: one framebuffer cell, by its linear index (10_state R29). -/
def State.pixel (s : State) (j : Nat) : Bool := s.fb.getLsbD j

/-- `tone = (ST != 0)` (R100, 60_exceptions R235). -/
def State.tone (s : State) : Bool := s.st != 0#8

/-- `display_changed` of the last step; a Blocked or Faulted step reads 0 (R108, log 25). -/
def State.displayChanged (s : State) : Bool :=
  match s.outcome with
  | some (.done d) => d
  | some .blocked => false
  | some (.faulted _) => false
  | none => false

/-- The fault codes (60_exceptions R220). -/
def FaultKind.code : FaultKind → Nat
  | .decodeError => 1
  | .stackOverflow => 2
  | .stackUnderflow => 3
  | .memOutOfRange => 4
  | .fbOutOfRange => 5
  | .keyOutOfRange => 6

/-- The code at the port `fault`: 0 while the core runs (R100, R220). -/
def State.faultCode (s : State) : Nat :=
  match s.halted with
  | none => 0
  | some r => r.kind.code

end Sys2Proof.Machine
end

