-- ==== Sys2Proof/Safety.lean ====
section
/-! DEFINITION. The terms claims are written in: the parts of the state and what a frame leaves alone, the machine's
invariant, and the end of a run. -/

namespace Sys2Proof.Machine

/-- The parts of the state other than the general registers (10_state R20; `outcome` and `draws` are the model's own). -/
inductive Part where
  | i | pc | stack | sp | dt | st | fb | keys | mem | halted | outcome | draws
deriving DecidableEq, Repr

/-- The part has the same content in both states; memory is compared byte by byte through `Memory.read`. -/
def Part.same (s t : State) : Part → Prop
  | .i => t.i = s.i
  | .pc => t.pc = s.pc
  | .stack => t.stack = s.stack
  | .sp => t.sp = s.sp
  | .dt => t.dt = s.dt
  | .st => t.st = s.st
  | .fb => t.fb = s.fb
  | .keys => t.keys = s.keys
  | .mem => ∀ a, t.mem.read a = s.mem.read a
  | .halted => t.halted = s.halted
  | .outcome => t.outcome = s.outcome
  | .draws => t.draws = s.draws

/-- From `s` to `t` nothing changes but the named registers and the named parts. -/
structure Frame (regs : List RegIdx) (parts : List Part) (s t : State) : Prop where
  regsKept : ∀ z, z ∉ regs → t.reg z = s.reg z
  partsKept : ∀ p, p ∉ parts → p.same s t

/-- `exec i s` answers a next state `t` in which the instruction has completed with display-changed signal `d`, and nothing
has changed but the named registers and parts (40_step_cycle R105, R106). -/
def Completes (i : Instr) (s : State) (d : Bool) (regs : List RegIdx) (parts : List Part) (post : State → Prop) : Prop :=
  ∃ t, exec i s = .next t ∧ t.outcome = some (.done d) ∧ Frame regs (.outcome :: parts) s t ∧ post t

/-- `exec i s` takes the fault of this kind and info: a next state that differs from `s` in the fault record alone, which
holds the kind, the pc of the instruction, its word (`encode i`, which is the fetched word: log 20) and the info
(60_exceptions R227, R228). -/
def Faults (i : Instr) (s : State) (kind : FaultKind) (info : Nat) : Prop :=
  ∃ t, exec i s = .next t ∧ Frame [] [.halted, .outcome] s t ∧
    t.halted = some { kind := kind, pc := s.pc, op := some (encode i), info := info } ∧
    t.outcome = some (.faulted { kind := kind, pc := s.pc, op := some (encode i), info := info })

/-- Some set bit of the n sprite rows at I, drawn at (X, Y), has the linear index j: column col of row `row` is bit 7 - col
(44_display R192), its index `(X + col) + (Y + row) * 64` (R191). -/
def State.SpriteSets (s : State) (x y n j : Nat) : Prop :=
  ∃ row col, row < n ∧ col < 8 ∧ (s.mem.read (s.i.toNat + row)).getLsbD (7 - col) = true ∧
    j = (x + col) + (y + row) * 64

/-- The coordinate Dxyn reads from a register: V[x] at the start of the step, or, for VF in sequential mode, VF after its
reset to 0 (44_display R191, 92_eei_decisions D2; log 6). -/
def State.drawCoord (s : State) (x : RegIdx) : Nat :=
  match vfAliasMode with
  | .snapshot => (s.reg x).toNat
  | .sequential => if x = 15 then 0 else (s.reg x).toNat

/-- What holds at reset and after every step and host operation: memory is in its canonical form, pc is at most 0x10FE
(40_step_cycle R112), every stack slot is an address an instruction can be fetched from, the recorded outcome is Faulted
exactly when the core is halted and with the same record (60_exceptions R229), and a halted core's pc is that of the
offending instruction (R227). -/
structure State.Inv (s : State) : Prop where
  memory : s.mem.wf = true
  pcBound : s.pc.toNat ≤ 0x10FE
  slotBound : ∀ j : Fin 16, s.stack[j].toNat ≤ 0xFFE
  faultOutcome : ∀ r, s.halted = some r ↔ s.outcome = some (.faulted r)
  faultPc : ∀ r, s.halted = some r → r.pc = s.pc

/-- The kinds of end of a run (70_reset_and_hazards R261). -/
inductive EndKind where
  /-- (a) a fault. -/
  | fault
  /-- (b) a jump to itself. -/
  | selfJump
  /-- (c) Fx0A with no key pressed. -/
  | noKey
deriving DecidableEq, Repr

/-- The word at pc is the instruction `i` (R261). -/
def State.Holds (s : State) (i : Instr) : Prop := ∃ op, s.fetchWord = .ok op ∧ decodeWord op = .ok i

/-- The condition (a), (b) or (c) of R261 holds of the state: a halted core, a running core about to take a self-jump, a
running core whose next step returns Blocked. On a halted core only (a) can hold; log 31. -/
def State.EndsBy (s : State) : EndKind → Prop
  | .fault => s.halted ≠ none
  | .selfJump => s.halted = none ∧ ∃ nnn, s.Holds (.jp nnn) ∧ zextAddr nnn = s.pc
  | .noKey => s.halted = none ∧ (∃ x, s.Holds (.ldVxK x)) ∧ s.pressedKeys = []

/-- THE END OF A RUN (R261): the run from `s` with the key writes `ks`, one before each step, ends after its last step, by this
kind, where `next` is the keymap the step after it would read (the host's future key write). At least one step was taken;
a condition holds of the state reached; and none held after an earlier step. Every state, the last one too, is seen as the
step that follows sees it: with the keymap the host writes for that step (log 33). -/
structure State.RunEnds (s : State) (ks : List (Vector Bool 16)) (next : Vector Bool 16) (kind : EndKind) : Prop where
  stepped : ks ≠ []
  reached : ((s.runKeys ks).setKeys next).EndsBy kind
  first : ∀ (n : Nat) (h : n < ks.length), 0 < n → ∀ other, ¬ ((s.runKeys (ks.take n)).setKeys ks[n]).EndsBy other

end Sys2Proof.Machine
end

