-- ==== Sys2Proof/Certificates/Slice0/Obligations.lean ====
section
/-! DEFINITION. The statements for the provers, from the numbered rules of spec/, file by file. `Completes i s d regs parts post`
(Safety.lean) says that exec answers a next state in which the instruction has completed with display-changed signal d,
that nothing but the named registers and parts has changed, and that post holds of it. `Faults i s kind info` says that
exec takes that fault, precisely. -/

open Sys2Proof Sys2Proof.Machine

/-! ### Encoding and decoding (spec/30_encoding.md) -/

/-- Words written out bit by bit from the patterns of R85, one or more a family, decode to what they stand for, and undefined
words of the six families with a second dispatch are rejected by name. A sanity statement. -/
def Obligations.SpecWordsDecode : Prop :=
  decodeBytes [0x00#8, 0xE0#8] = .ok (.cls, []) ∧ decodeBytes [0x00#8, 0xEE#8] = .ok (.ret, []) ∧
  decodeBytes [0x1A#8, 0xBC#8] = .ok (.jp 0xABC#12, []) ∧ decodeBytes [0x33#8, 0x42#8] = .ok (.seByte 3 0x42#8, []) ∧
  decodeBytes [0x51#8, 0x20#8] = .ok (.seReg 1 2, []) ∧ decodeBytes [0x70#8, 0x01#8] = .ok (.addByte 0 0x01#8, []) ∧
  decodeBytes [0x82#8, 0x1E#8] = .ok (.shl 2 1, []) ∧ decodeBytes [0xBF#8, 0xFF#8] = .ok (.jpV0 0xFFF#12, []) ∧
  decodeBytes [0xD0#8, 0x15#8] = .ok (.drw 0 1 5, []) ∧ decodeBytes [0xE5#8, 0xA1#8] = .ok (.sknp 5, []) ∧
  decodeBytes [0xF2#8, 0x65#8] = .ok (.ldVxMem 2, []) ∧
  decodeBytes [0x01#8, 0x23#8] = .error .family0 ∧ decodeBytes [0x51#8, 0x21#8] = .error .families5and9 ∧
  decodeBytes [0x80#8, 0x08#8] = .error .family8 ∧ decodeBytes [0xE0#8, 0x9A#8] = .error .familyE ∧
  decodeBytes [0xF0#8, 0xFF#8] = .error .familyF ∧ decodeBytes [0x60#8] = .error .truncated

/-- Decoding the bytes of any well-formed instruction, whatever follows them, gives it back with every operand, and leaves
what follows (R70, R71, R72, R85). -/
def Obligations.DecodeOfEncode : Prop :=
  ∀ (i : Instr) (rest : List Byte), i.WellFormed → decodeBytes (encodeBytes i ++ rest) = .ok (i, rest)

/-- A word that decodes gives a well-formed instruction whose encoding is that word again, and the instruction's row of the
opcode map is the one and only row the word matches (R85). -/
def Obligations.DecodedWordHasOneRow : Prop :=
  ∀ (op : Word) (i : Instr), decodeWord op = .ok i →
    i.WellFormed ∧ encode i = op ∧ opcodeRow i ∈ opcodeRows ∧
      ∀ row ∈ opcodeRows, (rowMatches op row = true ↔ row = opcodeRow i)

/-- A word that no row of the opcode map matches is rejected, and no other word is (R81, R82, R85). -/
def Obligations.RejectedWordsMatchNoRow : Prop :=
  ∀ op : Word, (∃ e, decodeWord op = .error e) ↔ ∀ row ∈ opcodeRows, rowMatches op row = false

/-- A word of a family without a second dispatch, 1, 2, 3, 4, 6, 7, A, B, C or D, is defined whatever its operand fields are;
of families 5 and 9 exactly the words with a low nibble of 0 are (R76, R80). -/
def Obligations.FamiliesWithoutSecondDispatch : Prop :=
  ∀ op : Word,
    (fieldC op ∈ [0x1#4, 0x2#4, 0x3#4, 0x4#4, 0x6#4, 0x7#4, 0xA#4, 0xB#4, 0xC#4, 0xD#4] →
      ∃ i, decodeWord op = .ok i) ∧
    (fieldC op = 0x5#4 ∨ fieldC op = 0x9#4 → (fieldN op = 0x0#4 ↔ ∃ i, decodeWord op = .ok i))

/-- Of family 0 exactly the words 00E0 and 00EE are defined (R75), of family E exactly the bottom bytes 9E and A1 (R78), of
family F exactly the nine of R79; of family 8 the bottom nibbles 0 to 7 and E. That family 8 is keyed by its bottom nibble is
an inference the spec marks as its own: R77, "so the secondary key is the bottom nibble [derived: from the table patterns]". -/
def Obligations.FamiliesWithSecondDispatch : Prop :=
  ∀ op : Word,
    (fieldC op = 0x0#4 → ((∃ i, decodeWord op = .ok i) ↔ op = 0x00E0#16 ∨ op = 0x00EE#16)) ∧
    (fieldC op = 0x8#4 → ((∃ i, decodeWord op = .ok i) ↔ (fieldN op).toNat ≤ 7 ∨ fieldN op = 0xE#4)) ∧
    (fieldC op = 0xE#4 → ((∃ i, decodeWord op = .ok i) ↔ fieldKK op = 0x9E#8 ∨ fieldKK op = 0xA1#8)) ∧
    (fieldC op = 0xF#4 → ((∃ i, decodeWord op = .ok i) ↔
      fieldKK op ∈ [0x07#8, 0x0A#8, 0x15#8, 0x18#8, 0x1E#8, 0x29#8, 0x33#8, 0x55#8, 0x65#8]))

/-! ### Reset, host operations, memory (spec/10_state.md, 20_memory.md, 70_reset_and_hazards.md) -/

/-- R250: `initialize()` on any state, halted or not, zeroes memory, registers, stack, framebuffer, keymap, timers, I and SP,
installs GLYPH_TABLE (the parameter; its default bytes are log 7) at 0, sets pc to 0x200 and clears the halt; State.reset
holds the same values. R250 writes SP <- 0, which R35 marks as the spec's own inference (log 17). -/
def Obligations.InitializeResetsEverything : Prop :=
  ∀ s t : State, t = s.initialize ∨ t = State.reset →
    (∀ a, a < 80 → t.mem.read a = glyphTable.getD a 0#8) ∧ (∀ a, 80 ≤ a → a < 4096 → t.mem.read a = 0#8) ∧
    (∀ x, t.reg x = 0#8) ∧ (∀ j : Fin 16, t.stack[j] = 0#16) ∧ (∀ k, t.key k = false) ∧
    t.i = 0#16 ∧ t.sp.val = 0 ∧ t.dt = 0#8 ∧ t.st = 0#8 ∧ (∀ j, j < 2048 → t.pixel j = false) ∧
    t.pc = 0x200#16 ∧ t.halted = none

/-- The invariant holds at reset. Its memory form and its recorded outcome are the model's choices (logs 19 and 2). -/
def Obligations.ResetMeetsInvariant : Prop := State.reset.Inv

/-- Every step keeps the invariant: memory stays canonical, pc stays at most 0x10FE (R112), stack slots stay fetchable
addresses, and the outcome, the halt and its pc stay in agreement (R227, R229). The memory form
and the recorded outcome are the model's choices (logs 19 and 2). -/
def Obligations.StepKeepsInvariant : Prop := ∀ s t : State, s.Inv → step s = .next t → t.Inv

/-- Every host operation keeps the invariant (R65, R110, R250, R252). That the operations are functions between steps is the
model's form (log 22). -/
def Obligations.HostOperationsKeepInvariant : Prop := ∀ (s : State) (o : HostOp), s.Inv → (s.applyHost o).Inv

/-- R252, R253: `load_program` of at most 3584 bytes puts them at 0x200 and up and leaves all else; of more, it fails with
ProgramTooLarge, and the host operation then leaves the state as it was. -/
def Obligations.LoadProgramWritesMemoryOnly : Prop :=
  ∀ (s : State) (bytes : List Byte),
    (bytes.length ≤ 3584 → ∃ t, s.loadProgram bytes = .ok t ∧ s.applyHost (.load (some bytes)) = t ∧
      Frame [] [.mem] s t ∧ (∀ k (h : k < bytes.length), t.mem.read (0x200 + k) = bytes[k]) ∧
      (∀ a, a < 0x200 ∨ 0x200 + bytes.length ≤ a → t.mem.read a = s.mem.read a)) ∧
    (3584 < bytes.length → s.loadProgram bytes = .error .programTooLarge ∧ s.applyHost (.load (some bytes)) = s)

/-- A byte written is the byte read back, every other byte reads as before, and an address in the space keeps the canonical
form (R57, R61; the form is the model's, log 19). -/
def Obligations.MemoryWriteThenRead : Prop :=
  ∀ (m : Memory) (a : Nat) (w : Byte),
    (m.write a w).read a = w ∧ (∀ b, b ≠ a → (m.write a w).read b = m.read b) ∧
      (m.wf = true → a < 4096 → (m.write a w).wf = true)

/-- Two canonical memories that read alike at every address are the same list (log 19). -/
def Obligations.CanonicalMemoryIsUnique : Prop :=
  ∀ m m' : Memory, m.wf = true → m'.wf = true → (∀ a, m.read a = m'.read a) → m = m'

/-! ### The step (spec/40_step_cycle.md, 60_exceptions.md) -/

/-- R102: a step of a halted core changes nothing and returns the same record. -/
def Obligations.HaltedStepChangesNothing : Prop :=
  ∀ (s : State) (r : FaultRecord), s.halted = some r →
    ∃ t, step s = .next t ∧ t.outcome = some (.faulted r) ∧ Frame [] [.outcome] s t

/-- R103: the fetch composes the bytes at pc and pc + 1, high byte first, at any pc up to 0xFFE, odd ones too; at a higher pc
the step takes MemOutOfRange with no op, recording pc itself or, at pc = 0xFFF, 0x1000, and changes nothing else. -/
def Obligations.FetchReadsTwoBytesOrFaults : Prop :=
  ∀ s : State,
    (s.pc.toNat ≤ 0xFFE → ∃ op, s.fetchWord = .ok op ∧
      op.toNat = (s.mem.read s.pc.toNat).toNat * 256 + (s.mem.read (s.pc.toNat + 1)).toNat) ∧
    (0xFFE < s.pc.toNat → s.halted = none → ∃ t, step s = .next t ∧ Frame [] [.halted, .outcome] s t ∧
      t.halted = some { kind := .memOutOfRange, pc := s.pc, op := none, info := max s.pc.toNat 0x1000 } ∧
      t.outcome = some (.faulted { kind := .memOutOfRange, pc := s.pc, op := none, info := max s.pc.toNat 0x1000 }))

/-- R104: the step decodes the fetched word; it runs the instruction the word decodes to, and on a word that is no instruction
it takes DecodeError, recording the word, and changes nothing else. -/
def Obligations.FetchedWordRunsOrTakesDecodeError : Prop :=
  ∀ (s : State) (op : Word), s.halted = none → s.fetchWord = .ok op →
    (∀ i, decodeWord op = .ok i → step s = finishStep (exec i s)) ∧
    (∀ e, decodeWord op = .error e → ∃ t, step s = .next t ∧ Frame [] [.halted, .outcome] s t ∧
      t.halted = some { kind := .decodeError, pc := s.pc, op := some op, info := op.toNat } ∧
      t.outcome = some (.faulted { kind := .decodeError, pc := s.pc, op := some op, info := op.toNat }))

/-- A STEP RUNS THE DECODED INSTRUCTION: on a core that is not halted, whose bytes at pc and pc + 1 decode to an instruction,
the step is exec of it, then the end of the step (R105, R109). -/
def Obligations.StepRunsDecodedInstruction : Prop :=
  ∀ (s : State) (i : Instr), s.halted = none → s.pc.toNat ≤ 0xFFE → i.WellFormed →
    decodeBytes [s.mem.read s.pc.toNat, s.mem.read (s.pc.toNat + 1)] = .ok (i, []) →
    step s = finishStep (exec i s)

/-- R107: after an instruction that completed, each non-zero timer is one less than the instruction left it and a zero timer
stays 0, and nothing else changes; after one that blocked or faulted nothing changes. -/
def Obligations.TimersTickAfterCompletion : Prop :=
  ∀ (s t : State) (i : Instr), s.fetchDecode = .ok i → exec i s = .next t →
    ∃ u, step s = .next u ∧
      (∀ d, t.outcome = some (.done d) →
        u.dt.toNat = t.dt.toNat - 1 ∧ u.st.toNat = t.st.toNat - 1 ∧ Frame [] [.dt, .st] t u) ∧
      ((∀ d, t.outcome ≠ some (.done d)) → u = t)

/-- Every step answers a next state, and it is one of three: the instruction completed and the core is not halted; an Fx0A
blocked, no key being pressed, and nothing changed; or a fault is recorded, and nothing else changed (R106). That
a fault is a next state is the model's form (log 1). -/
def Obligations.StepHasThreeOutcomes : Prop :=
  ∀ s : State, ∃ t, step s = .next t ∧
    ((∃ d, t.outcome = some (.done d) ∧ s.halted = none ∧ t.halted = none) ∨
     (t.outcome = some .blocked ∧ (∃ x, s.Holds (.ldVxK x)) ∧ (∀ k, s.key k = false) ∧ Frame [] [.outcome] s t) ∨
     (∃ r, t.outcome = some (.faulted r) ∧ t.halted = some r ∧ Frame [] [.halted, .outcome] s t))

/-- A fault, in whatever phase of the step, leaves nothing behind: no register, no memory, no timer, no pc changes, and the only
change is the record, which holds the pc of the step that faulted, and the step does not tick after it (40_step_cycle
R113, 60_exceptions R227). That one raised by an instruction records that instruction's encoding, which is the fetched word
of R227, is log 20 (DEDUCED). -/
def Obligations.FaultsArePrecise : Prop :=
  (∀ (s t : State) (r : FaultRecord), step s = .next t → t.outcome = some (.faulted r) →
    t.halted = some r ∧ Frame [] [.halted, .outcome] s t ∧ (s.halted = none → r.pc = s.pc)) ∧
  (∀ (i : Instr) (s t : State) (r : FaultRecord), exec i s = .next t → t.outcome = some (.faulted r) →
    t.halted = some r ∧ r.pc = s.pc ∧ r.op = some (encode i) ∧ Frame [] [.halted, .outcome] s t ∧
      finishStep (exec i s) = .next t)

/-- R108: a completed instruction's display-changed signal is 1 for 00E0 and Dxyn and 0 for every other; a driver reads 0 for
a Blocked or Faulted outcome. -/
def Obligations.DisplayChangedByClsAndDrwOnly : Prop :=
  (∀ (i : Instr) (s t : State) (d : Bool), exec i s = .next t → t.outcome = some (.done d) →
    (d = true ↔ i = .cls ∨ ∃ x y n, i = .drw x y n) ∧ t.displayChanged = d) ∧
  (∀ t : State, (t.outcome = some .blocked ∨ ∃ r, t.outcome = some (.faulted r)) → t.displayChanged = false)

/-- The prose of 10_state and 20_memory over all instructions, for the framebuffer, the stack, SP, I, memory, the timers and the
keymap: only 00E0 and Dxyn change the framebuffer (R29), only 2nnn a stack slot (R26), only 2nnn and 00EE SP (R27), only
Annn, Fx1E, Fx29, Fx55, Fx65 I (R24), only Fx33 and Fx55 memory (R51), only Fx15 DT and only Fx18 ST before the tick (R28),
none the keymap (R30). WritersOfRegistersAndHalt says the same of the registers and of the halt. -/
def Obligations.WritersOfDisplayStackIndexMemoryTimersKeys : Prop :=
  ∀ (i : Instr) (s t : State), exec i s = .next t →
    (t.fb ≠ s.fb → i = .cls ∨ ∃ x y n, i = .drw x y n) ∧
    (t.stack ≠ s.stack → ∃ nnn, i = .call nnn) ∧
    (t.sp ≠ s.sp → i = .ret ∨ ∃ nnn, i = .call nnn) ∧
    (t.i ≠ s.i → (∃ nnn, i = .ldI nnn) ∨ ∃ x, i = .addI x ∨ i = .ldF x ∨ i = .ldMemVx x ∨ i = .ldVxMem x) ∧
    ((∃ a, t.mem.read a ≠ s.mem.read a) → ∃ x, i = .ldB x ∨ i = .ldMemVx x) ∧
    (t.dt ≠ s.dt → ∃ x, i = .ldDtVx x) ∧
    (t.st ≠ s.st → ∃ x, i = .ldStVx x) ∧
    t.keys = s.keys

/-- No instruction reads ST (R28): where the step answers a next state (it always does, StepHasThreeOutcomes), the step of a
state that differs in ST alone answers one that differs in ST alone. The two steps are compared under the same draws, the
two states having the same count of draws: for Cxkk and Fx0A this goes beyond the spec, by the form the model gives a
draw (logs 3 and 4, DESIGN CHOICE). -/
def Obligations.SoundTimerIsNotReadable : Prop :=
  ∀ (s t : State) (w : Byte), step s = .next t →
    ∃ t', step (s.setSt w) = .next t' ∧ Frame [] [.st] t t'

/-- An instruction placed where the step fetches is the one the step executes, whatever the state but for a pc past the last
fetchable address (the host's question; R55, R103). Placing a word stands for the host's load (log 21). -/
def Obligations.PlacedWordIsFetched : Prop :=
  ∀ (s : State) (w : Nat) (i : Instr), s.pc.toNat ≤ 0xFFE → decodeTableWord 16 w = some i →
    (s.withFetchWord 16 w).fetchDecode = .ok i

/-! ### Control transfer (spec/41_control_flow.md) -/

/-- R120: with a non-empty stack 00EE resumes two past the address in the top slot, which it does not clear; with an empty one
it takes StackUnderflow. -/
def Obligations.ReturnResumesAfterCall : Prop :=
  decodeWord 0x00EE#16 = .ok .ret ∧ ∀ s : State,
    (∀ _h : 0 < s.sp.val, Completes .ret s false [] [.pc, .sp] (fun t =>
      t.sp.val = s.sp.val - 1 ∧ t.pc = s.stack[s.sp.val - 1] + 2#16)) ∧
    (s.sp.val = 0 → Faults .ret s .stackUnderflow 0)

/-- R121: 1nnn sets pc to nnn and changes nothing else. -/
def Obligations.JumpSetsPc : Prop :=
  ∀ (nnn : Addr12) (s : State), decodeWord (wordA 0x1#4 nnn) = .ok (.jp nnn) ∧
    Completes (.jp nnn) s false [] [.pc] (fun t => t.pc.toNat = nnn.toNat)

/-- R122: with a free slot 2nnn stores its own address there, increments SP and jumps; at SP = 16 it takes StackOverflow. -/
def Obligations.CallPushesItsOwnAddress : Prop :=
  ∀ (nnn : Addr12) (s : State), decodeWord (wordA 0x2#4 nnn) = .ok (.call nnn) ∧
    (s.sp.val < 16 → Completes (.call nnn) s false [] [.pc, .sp, .stack] (fun t =>
      (∀ j : Fin 16, t.stack[j] = if j.val = s.sp.val then s.pc else s.stack[j]) ∧
      t.sp.val = s.sp.val + 1 ∧ t.pc.toNat = nnn.toNat)) ∧
    (s.sp.val = 16 → Faults (.call nnn) s .stackOverflow 16)

/-- R123, R124: 3xkk skips when Vx equals kk, 4xkk when it does not; neither changes anything but pc. -/
def Obligations.SkipsOnByte : Prop :=
  ∀ (x : RegIdx) (kk : Byte) (s : State),
    decodeWord (wordXKK 0x3#4 x kk) = .ok (.seByte x kk) ∧ decodeWord (wordXKK 0x4#4 x kk) = .ok (.sneByte x kk) ∧
    Completes (.seByte x kk) s false [] [.pc] (fun t => t.pc = if s.reg x = kk then s.pc + 4#16 else s.pc + 2#16) ∧
    Completes (.sneByte x kk) s false [] [.pc] (fun t => t.pc = if s.reg x = kk then s.pc + 2#16 else s.pc + 4#16)

/-- R125, R126: 5xy0 skips when Vx equals Vy, 9xy0 when it does not; neither changes anything but pc. -/
def Obligations.SkipsOnRegisters : Prop :=
  ∀ (x y : RegIdx) (s : State),
    decodeWord (wordXYN 0x5#4 x y 0x0#4) = .ok (.seReg x y) ∧ decodeWord (wordXYN 0x9#4 x y 0x0#4) = .ok (.sneReg x y) ∧
    (∀ n : BitVec 4, n ≠ 0#4 → decodeWord (wordXYN 0x5#4 x y n) = .error .families5and9 ∧
      decodeWord (wordXYN 0x9#4 x y n) = .error .families5and9) ∧
    Completes (.seReg x y) s false [] [.pc] (fun t => t.pc = if s.reg x = s.reg y then s.pc + 4#16 else s.pc + 2#16) ∧
    Completes (.sneReg x y) s false [] [.pc] (fun t => t.pc = if s.reg x = s.reg y then s.pc + 2#16 else s.pc + 4#16)

/-- R127: Bnnn sets pc to V0 + nnn, not reduced to 12 bits, and changes nothing else. -/
def Obligations.ComputedJumpAddsV0 : Prop :=
  ∀ (nnn : Addr12) (s : State), decodeWord (wordA 0xB#4 nnn) = .ok (.jpV0 nnn) ∧
    Completes (.jpV0 nnn) s false [] [.pc] (fun t => t.pc.toNat = (s.reg 0).toNat + nnn.toNat)

/-- A call followed by a return resumes two past the call with the stack pointer as it was: nothing but pc and the slot the
call used has changed (R120, R122; the source's round-trip example S8 of 95_test_vectors). -/
def Obligations.CallThenReturnRoundTrip : Prop :=
  ∀ (nnn : Addr12) (s : State), s.sp.val < 16 →
    ∃ t u, exec (.call nnn) s = .next t ∧ exec .ret t = .next u ∧ u.pc = s.pc + 2#16 ∧
      Frame [] [.pc, .stack, .outcome] s u ∧ (∀ j : Fin 16, j.val ≠ s.sp.val → u.stack[j] = s.stack[j])

/-! ### Arithmetic (spec/42_arithmetic.md) -/

/-- R141, R142: 6xkk loads kk; 7xkk adds it modulo 256 and sets no flag; both advance pc by 2 and change nothing else. -/
def Obligations.LoadAndAddByte : Prop :=
  ∀ (x : RegIdx) (kk : Byte) (s : State),
    decodeWord (wordXKK 0x6#4 x kk) = .ok (.ldByte x kk) ∧ decodeWord (wordXKK 0x7#4 x kk) = .ok (.addByte x kk) ∧
    Completes (.ldByte x kk) s false [x] [.pc] (fun t => t.reg x = kk ∧ t.pc = s.pc + 2#16) ∧
    Completes (.addByte x kk) s false [x] [.pc] (fun t =>
      (t.reg x).toNat = ((s.reg x).toNat + kk.toNat) % 256 ∧ t.pc = s.pc + 2#16)

/-- R143, R144, R145, R146: move, OR, AND, XOR write Vx bit by bit, touch no flag, advance pc by 2 and change nothing else. -/
def Obligations.MoveAndLogic : Prop :=
  ∀ (x y : RegIdx) (s : State),
    decodeWord (wordXYN 0x8#4 x y 0x0#4) = .ok (.ldReg x y) ∧ decodeWord (wordXYN 0x8#4 x y 0x1#4) = .ok (.orReg x y) ∧
    decodeWord (wordXYN 0x8#4 x y 0x2#4) = .ok (.andReg x y) ∧ decodeWord (wordXYN 0x8#4 x y 0x3#4) = .ok (.xorReg x y) ∧
    Completes (.ldReg x y) s false [x] [.pc] (fun t => t.reg x = s.reg y ∧ t.pc = s.pc + 2#16) ∧
    Completes (.orReg x y) s false [x] [.pc] (fun t => t.pc = s.pc + 2#16 ∧
      ∀ k, (t.reg x).getLsbD k = ((s.reg x).getLsbD k || (s.reg y).getLsbD k)) ∧
    Completes (.andReg x y) s false [x] [.pc] (fun t => t.pc = s.pc + 2#16 ∧
      ∀ k, (t.reg x).getLsbD k = ((s.reg x).getLsbD k && (s.reg y).getLsbD k)) ∧
    Completes (.xorReg x y) s false [x] [.pc] (fun t => t.pc = s.pc + 2#16 ∧
      ∀ k, (t.reg x).getLsbD k = ((s.reg x).getLsbD k ^^ (s.reg y).getLsbD k))

/-- R147: 8xy4 writes the sum modulo 256 and then VF, 1 exactly when the sum is above 255; with x = F the flag is what VF
ends as. -/
def Obligations.AddSetsCarry : Prop :=
  ∀ (x y : RegIdx) (s : State), decodeWord (wordXYN 0x8#4 x y 0x4#4) = .ok (.addReg x y) ∧
    Completes (.addReg x y) s false [x, 15] [.pc] (fun t => t.pc = s.pc + 2#16 ∧
      (x ≠ 15 → (t.reg x).toNat = ((s.reg x).toNat + (s.reg y).toNat) % 256) ∧
      t.reg 15 = if (s.reg x).toNat + (s.reg y).toNat > 255 then 1#8 else 0#8)

/-- R148: 8xy5 writes Vx - Vy modulo 256 and then VF, 1 exactly when a BORROW occurred (Vx < Vy); with x = F the flag is what
VF ends as. -/
def Obligations.SubtractSetsBorrow : Prop :=
  ∀ (x y : RegIdx) (s : State), decodeWord (wordXYN 0x8#4 x y 0x5#4) = .ok (.subReg x y) ∧
    Completes (.subReg x y) s false [x, 15] [.pc] (fun t => t.pc = s.pc + 2#16 ∧
      (x ≠ 15 → (t.reg x).toNat = (256 + (s.reg x).toNat - (s.reg y).toNat) % 256) ∧
      t.reg 15 = if (s.reg x).toNat < (s.reg y).toNat then 1#8 else 0#8)

/-- R149: 8xy6 writes VF with old bit 0 of Vx and then Vx with Vx shifted right; Vy is not read. With x = F the shifted value
is what VF ends as: the old VF's in snapshot mode, 0 in sequential mode (the mode is log 6). -/
def Obligations.ShiftRightSetsBitOut : Prop :=
  ∀ (x y : RegIdx) (s : State), decodeWord (wordXYN 0x8#4 x y 0x6#4) = .ok (.shr x y) ∧
    Completes (.shr x y) s false [x, 15] [.pc] (fun t => t.pc = s.pc + 2#16 ∧
      (x ≠ 15 → (t.reg x).toNat = (s.reg x).toNat / 2 ∧ (t.reg 15).toNat = (s.reg x).toNat % 2) ∧
      (x = 15 → (t.reg 15).toNat =
        match vfAliasMode with
        | .snapshot => (s.reg 15).toNat / 2
        | .sequential => 0))

/-- R150: 8xy7 writes Vy - Vx modulo 256 and then VF, 0 exactly when Vx > Vy; with x = F the flag is what VF ends as. -/
def Obligations.SubtractReversedSetsNoBorrow : Prop :=
  ∀ (x y : RegIdx) (s : State), decodeWord (wordXYN 0x8#4 x y 0x7#4) = .ok (.subn x y) ∧
    Completes (.subn x y) s false [x, 15] [.pc] (fun t => t.pc = s.pc + 2#16 ∧
      (x ≠ 15 → (t.reg x).toNat = (256 + (s.reg y).toNat - (s.reg x).toNat) % 256) ∧
      t.reg 15 = if (s.reg x).toNat > (s.reg y).toNat then 0#8 else 1#8)

/-- R151: 8xyE writes VF with old bit 7 of Vx and then Vx with Vx shifted left modulo 256; Vy is not read. With x = F the
shifted value is what VF ends as: the old VF's in snapshot mode, twice the old bit 7 in sequential mode (log 6). -/
def Obligations.ShiftLeftSetsBitOut : Prop :=
  ∀ (x y : RegIdx) (s : State), decodeWord (wordXYN 0x8#4 x y 0xE#4) = .ok (.shl x y) ∧
    Completes (.shl x y) s false [x, 15] [.pc] (fun t => t.pc = s.pc + 2#16 ∧
      (x ≠ 15 → (t.reg x).toNat = (s.reg x).toNat * 2 % 256 ∧ (t.reg 15).toNat = (s.reg x).toNat / 128) ∧
      (x = 15 → (t.reg 15).toNat =
        match vfAliasMode with
        | .snapshot => (s.reg 15).toNat * 2 % 256
        | .sequential => (s.reg 15).toNat / 128 * 2))

/-- R152: Cxkk writes the step's draw masked by kk, and uses up one draw, so that the next is a fresh one; the draw is the
free value of log 3, of which nothing is assumed. -/
def Obligations.RandomIsMaskedDraw : Prop :=
  ∀ (x : RegIdx) (kk : Byte) (s : State), decodeWord (wordXKK 0xC#4 x kk) = .ok (.rnd x kk) ∧
    Completes (.rnd x kk) s false [x] [.pc, .draws] (fun t => t.pc = s.pc + 2#16 ∧ t.draws = s.draws + 1 ∧
      ∀ k, (t.reg x).getLsbD k = ((Config.rnd s.draws).getLsbD k && kk.getLsbD k))

/-! ### Index register and memory (spec/43_index_memory.md) -/

/-- R170, R172: Annn loads I with nnn, Fx29 with five times the whole of Vx; both advance pc by 2 and change nothing else. -/
def Obligations.IndexLoads : Prop :=
  ∀ (nnn : Addr12) (x : RegIdx) (s : State),
    decodeWord (wordA 0xA#4 nnn) = .ok (.ldI nnn) ∧ decodeWord (wordXKK 0xF#4 x 0x29#8) = .ok (.ldF x) ∧
    Completes (.ldI nnn) s false [] [.pc, .i] (fun t => t.i.toNat = nnn.toNat ∧ t.pc = s.pc + 2#16) ∧
    Completes (.ldF x) s false [] [.pc, .i] (fun t => t.i.toNat = (s.reg x).toNat * 5 ∧ t.pc = s.pc + 2#16)

/-- R171: Fx1E adds Vx to I modulo 2^16 and sets VF, 1 exactly when the unreduced sum is above 0xFFF. -/
def Obligations.IndexAddSetsOverflow : Prop :=
  ∀ (x : RegIdx) (s : State), decodeWord (wordXKK 0xF#4 x 0x1E#8) = .ok (.addI x) ∧
    Completes (.addI x) s false [15] [.pc, .i] (fun t => t.pc = s.pc + 2#16 ∧
      t.i.toNat = (s.i.toNat + (s.reg x).toNat) % 65536 ∧
      t.reg 15 = if s.i.toNat + (s.reg x).toNat > 0xFFF then 1#8 else 0#8)

/-- R173: with I + 2 at most 0xFFF, Fx33 stores the hundreds, tens and ones of Vx at I, I + 1, I + 2 and every other byte and
I keep their values; with a higher I it takes MemOutOfRange at the first bad address and stores nothing. -/
def Obligations.DecimalDigitsStored : Prop :=
  ∀ (x : RegIdx) (s : State), decodeWord (wordXKK 0xF#4 x 0x33#8) = .ok (.ldB x) ∧
    (s.i.toNat + 2 ≤ 0xFFF → Completes (.ldB x) s false [] [.pc, .mem] (fun t => t.pc = s.pc + 2#16 ∧
      (t.mem.read s.i.toNat).toNat = (s.reg x).toNat / 100 ∧
      (t.mem.read (s.i.toNat + 1)).toNat = (s.reg x).toNat / 10 % 10 ∧
      (t.mem.read (s.i.toNat + 2)).toNat = (s.reg x).toNat % 10 ∧
      ∀ a, a < s.i.toNat ∨ s.i.toNat + 3 ≤ a → t.mem.read a = s.mem.read a)) ∧
    (0xFFF < s.i.toNat + 2 → Faults (.ldB x) s .memOutOfRange (max s.i.toNat 0x1000))

/-- R174: with I + x at most 0xFFF, Fx55 stores V0..Vx at I..I+x, every other byte keeps its value and I ends at I + x + 1;
with a higher I it takes MemOutOfRange at the first bad address and stores nothing. -/
def Obligations.RegistersStored : Prop :=
  ∀ (x : RegIdx) (s : State), decodeWord (wordXKK 0xF#4 x 0x55#8) = .ok (.ldMemVx x) ∧
    (s.i.toNat + x.val ≤ 0xFFF → Completes (.ldMemVx x) s false [] [.pc, .i, .mem] (fun t => t.pc = s.pc + 2#16 ∧
      t.i.toNat = s.i.toNat + x.val + 1 ∧
      (∀ k : RegIdx, k.val ≤ x.val → t.mem.read (s.i.toNat + k.val) = s.reg k) ∧
      ∀ a, a < s.i.toNat ∨ s.i.toNat + x.val + 1 ≤ a → t.mem.read a = s.mem.read a)) ∧
    (0xFFF < s.i.toNat + x.val → Faults (.ldMemVx x) s .memOutOfRange (max s.i.toNat 0x1000))

/-- R175: with I + x at most 0xFFF, Fx65 loads V0..Vx from I..I+x, the registers above x keep their values and I ends at
I + x + 1; with a higher I it takes MemOutOfRange at the first bad address and loads nothing. -/
def Obligations.RegistersLoaded : Prop :=
  ∀ (x : RegIdx) (s : State), decodeWord (wordXKK 0xF#4 x 0x65#8) = .ok (.ldVxMem x) ∧
    (s.i.toNat + x.val ≤ 0xFFF → Completes (.ldVxMem x) s false (regsUpTo x) [.pc, .i] (fun t => t.pc = s.pc + 2#16 ∧
      t.i.toNat = s.i.toNat + x.val + 1 ∧
      (∀ k : RegIdx, k.val ≤ x.val → t.reg k = s.mem.read (s.i.toNat + k.val)) ∧
      ∀ k : RegIdx, x.val < k.val → t.reg k = s.reg k)) ∧
    (0xFFF < s.i.toNat + x.val → Faults (.ldVxMem x) s .memOutOfRange (max s.i.toNat 0x1000))

/-- What Fx55 stores Fx65 loads back (R174, R175): after Fx55, with any values w put into the registers and I set back, Fx65
gives V0..Vx the values they had when Fx55 stored them and leaves the registers above x as w has them. -/
def Obligations.StoreThenLoadRegisters : Prop :=
  ∀ (x : RegIdx) (s : State) (w : Vector Byte 16), s.i.toNat + x.val ≤ 0xFFF →
    ∃ t u, exec (.ldMemVx x) s = .next t ∧ exec (.ldVxMem x) ({ t with v := w }.setI s.i) = .next u ∧
      (∀ k : RegIdx, k.val ≤ x.val → u.reg k = s.reg k) ∧ (∀ k : RegIdx, x.val < k.val → u.reg k = w[k]) ∧
      Frame (List.finRange 16) [.pc, .i, .mem, .outcome] s u

/-! ### Display (spec/44_display.md) -/

/-- R190: 00E0 turns every cell off, whatever it was, signals display-changed and changes nothing else but pc. -/
def Obligations.ClearTurnsEveryCellOff : Prop :=
  decodeWord 0x00E0#16 = .ok .cls ∧ ∀ s : State,
    Completes .cls s true [] [.pc, .fb] (fun t => t.pc = s.pc + 2#16 ∧ ∀ j, j < 2048 → t.pixel j = false)

/-- Dxyn completes when every sprite row is readable and every set bit's linear index is at most 2047: each such cell flips,
no other does, VF is 1 exactly when a set bit fell on a cell that was on, and nothing else changes but pc (R191). Rests on
the bit order of R192 (log 8) and on VF_ALIAS_MODE where x or y is F (log 6). -/
def Obligations.DrawFlipsTheSpriteCells : Prop :=
  ∀ (x y : RegIdx) (n : Nat) (s : State),
    (n < 16 → decodeWord (wordXYN 0xD#4 x y (BitVec.ofNat 4 n)) = .ok (.drw x y n)) ∧
    ((∀ row, row < n → s.i.toNat + row ≤ 0xFFF) →
      (∀ j, s.SpriteSets (s.drawCoord x) (s.drawCoord y) n j → j ≤ 2047) →
      Completes (.drw x y n) s true [15] [.pc, .fb] (fun t => t.pc = s.pc + 2#16 ∧
        (∀ j, t.pixel j = true ↔
          ¬ (s.pixel j = true ↔ s.SpriteSets (s.drawCoord x) (s.drawCoord y) n j)) ∧
        (t.reg 15 = 1#8 ↔ ∃ j, s.SpriteSets (s.drawCoord x) (s.drawCoord y) n j ∧ s.pixel j = true) ∧
        (t.reg 15 = 0#8 ∨ t.reg 15 = 1#8)))

/-- Dxyn faults at the first failing check in row-major order (R191, R230): when the rows before `row` pass all their checks,
an unreadable `row` gives MemOutOfRange at I + row, and a readable one whose set bit at column col is the row's first with
an index above 2047 gives FbOutOfRange with that index. Nothing is drawn and VF keeps its value. Same logs. -/
def Obligations.DrawFaultsAtTheFirstFailingCheck : Prop :=
  ∀ (x y : RegIdx) (n row : Nat) (s : State), row < n →
    (∀ r, r < row → s.i.toNat + r ≤ 0xFFF) →
    (∀ j, s.SpriteSets (s.drawCoord x) (s.drawCoord y) row j → j ≤ 2047) →
    (0xFFF < s.i.toNat + row → Faults (.drw x y n) s .memOutOfRange (s.i.toNat + row)) ∧
    (∀ col, s.i.toNat + row ≤ 0xFFF → col < 8 →
      (s.mem.read (s.i.toNat + row)).getLsbD (7 - col) = true →
      2047 < (s.drawCoord x + col) + (s.drawCoord y + row) * 64 →
      (∀ c, c < col → (s.mem.read (s.i.toNat + row)).getLsbD (7 - c) = true →
        (s.drawCoord x + c) + (s.drawCoord y + row) * 64 ≤ 2047) →
      Faults (.drw x y n) s .fbOutOfRange ((s.drawCoord x + col) + (s.drawCoord y + row) * 64))

/-- Drawing the same sprite at the same place twice restores the framebuffer, and the second draw reports a collision exactly
when some set bit of the sprite was drawn, if the coordinates are not in VF (R191, the corner case Self-cancelling). -/
def Obligations.DrawTwiceRestoresTheFramebuffer : Prop :=
  ∀ (x y : RegIdx) (n : Nat) (s t : State), x ≠ 15 → y ≠ 15 →
    exec (.drw x y n) s = .next t → t.outcome = some (.done true) →
    ∃ u, exec (.drw x y n) t = .next u ∧ u.outcome = some (.done true) ∧ (∀ j, u.pixel j = s.pixel j) ∧
      ((∀ j, s.pixel j = false) →
        (u.reg 15 = 1#8 ↔ ∃ j, s.SpriteSets (s.drawCoord x) (s.drawCoord y) n j))

/-! ### Keypad and timers (spec/45_input_timer.md) -/

/-- R200, R201: with Vx at most 15, Ex9E skips when key Vx is pressed and ExA1 when it is not, changing nothing but pc; with a
larger Vx both take KeyOutOfRange. -/
def Obligations.SkipsOnKey : Prop :=
  ∀ (x : RegIdx) (s : State),
    decodeWord (wordXKK 0xE#4 x 0x9E#8) = .ok (.skp x) ∧ decodeWord (wordXKK 0xE#4 x 0xA1#8) = .ok (.sknp x) ∧
    (∀ k : RegIdx, (s.reg x).toNat = k.val →
      Completes (.skp x) s false [] [.pc] (fun t => t.pc = if s.key k = true then s.pc + 4#16 else s.pc + 2#16) ∧
      Completes (.sknp x) s false [] [.pc] (fun t => t.pc = if s.key k = true then s.pc + 2#16 else s.pc + 4#16)) ∧
    (15 < (s.reg x).toNat → Faults (.skp x) s .keyOutOfRange (s.reg x).toNat ∧
      Faults (.sknp x) s .keyOutOfRange (s.reg x).toNat)

/-- Fx07 reads DT as it is before the tick; Fx15 and Fx18 write DT and ST with Vx before the tick; each advances pc by 2 and
changes nothing else (R202, R204, R205). That at the end of the step DT is Vx - 1 after Fx15, ST is Vx - 1 after Fx18, or 0,
and that no tone is signalled after Fx18 with Vx = 1, are inferences the spec marks as its own: the sentences "so at the end
of the step DT = Vx - 1 when Vx > 0, and DT = 0 when Vx = 0 [derived: ...]" of R204 and "so at the end of the step
ST = Vx - 1 when Vx > 0 ... no tone is ever signalled [derived: ...]" of R205. -/
def Obligations.TimerTransfers : Prop :=
  ∀ (x : RegIdx) (s : State),
    decodeWord (wordXKK 0xF#4 x 0x07#8) = .ok (.ldVxDt x) ∧ decodeWord (wordXKK 0xF#4 x 0x15#8) = .ok (.ldDtVx x) ∧
    decodeWord (wordXKK 0xF#4 x 0x18#8) = .ok (.ldStVx x) ∧
    Completes (.ldVxDt x) s false [x] [.pc] (fun t => t.reg x = s.dt ∧ t.pc = s.pc + 2#16) ∧
    Completes (.ldDtVx x) s false [] [.pc, .dt] (fun t => t.dt = s.reg x ∧ t.pc = s.pc + 2#16) ∧
    Completes (.ldStVx x) s false [] [.pc, .st] (fun t => t.st = s.reg x ∧ t.pc = s.pc + 2#16) ∧
    (∃ u, finishStep (exec (.ldVxDt x) s) = .next u ∧ u.reg x = s.dt ∧ u.dt.toNat = s.dt.toNat - 1) ∧
    (∃ u, finishStep (exec (.ldDtVx x) s) = .next u ∧ u.dt.toNat = (s.reg x).toNat - 1) ∧
    (∃ u, finishStep (exec (.ldStVx x) s) = .next u ∧ u.st.toNat = (s.reg x).toNat - 1 ∧
      u.tone = decide (1 < (s.reg x).toNat))

/-- R203: with no key pressed Fx0A blocks, changing nothing; with a key pressed it writes the number of a pressed key, advances
pc by 2 and changes nothing else. The key is the one the step's draw picks among those pressed, the draw being the free value
of log 4; it uses up one draw, so that the next is a fresh one (log 5); and any pressed key is the pick of some draw. -/
def Obligations.WaitForKeyBlocksOrReadsAPressedKey : Prop :=
  ∀ (x : RegIdx) (s : State), decodeWord (wordXKK 0xF#4 x 0x0A#8) = .ok (.ldVxK x) ∧
    ((∀ k, s.key k = false) →
      ∃ t, exec (.ldVxK x) s = .next t ∧ t.outcome = some .blocked ∧ Frame [] [.outcome] s t) ∧
    ((∃ k, s.key k = true) → Completes (.ldVxK x) s false [x] [.pc, .draws] (fun t =>
      (∃ k, s.key k = true ∧ (t.reg x).toNat = k.val) ∧ t.pc = s.pc + 2#16 ∧ t.draws = s.draws + 1 ∧
      ∀ k ks, s.pressedKeys = k :: ks → (t.reg x).toNat = (pickKey (Config.keyChoice s.draws) k ks).val)) ∧
    (∀ k ks, s.pressedKeys = k :: ks → ∀ q, s.key q = true → ∃ d, pickKey d k ks = q)

/-- A step of Fx15 ends with DT one below Vx, or 0, and a step of Fx07 right after it reads that value and ends with DT one
lower again, never below 0 (R107, R204, R257). -/
def Obligations.DelayTimerWriteThenRead : Prop :=
  ∀ (x y : RegIdx) (s t u : State), s.fetchDecode = .ok (.ldDtVx x) → step s = .next t →
    t.fetchDecode = .ok (.ldVxDt y) → step t = .next u →
    t.dt.toNat = (s.reg x).toNat - 1 ∧ (u.reg y).toNat = (s.reg x).toNat - 1 ∧ u.dt.toNat = (s.reg x).toNat - 2

/-! ### The end of a run (spec/70_reset_and_hazards.md R261) -/

/-- The three conditions of R261 last: a halted core stays as it is, a self-jump steps to a state that differs in the timers
alone and is a self-jump again, and an Fx0A with no key pressed blocks and is one again (R102, R121, R203; logs 31 and 33). -/
def Obligations.EndsOfARunStay : Prop :=
  ∀ (s : State) (k : EndKind), s.EndsBy k → ∃ t, step s = .next t ∧ t.EndsBy k ∧
    match k with
    | .fault => Frame [] [.outcome] s t
    | .selfJump => Frame [] [.dt, .st, .outcome] s t
    | .noKey => Frame [] [.outcome] s t ∧ t.outcome = some .blocked

/-- A run has one end, of one kind (R261): the three conditions exclude each other, and where a run ends after these key
writes, a longer run ends again only if the end was an Fx0A that the next keymap, with no key pressed, would block, and the
host writes another one with a key pressed instead: R261 (c) is "relative to the host's future key writes". The end of a
run is the spec's definition as the model reads it (logs 31 and 33). -/
def Obligations.RunEndsOnce : Prop :=
  (∀ (s : State) (k k' : EndKind), s.EndsBy k → s.EndsBy k' → k = k') ∧
  (∀ (s : State) (ks : List (Vector Bool 16)) (next m : Vector Bool 16) (more : List (Vector Bool 16))
    (next' : Vector Bool 16) (k k' : EndKind),
    s.RunEnds ks next k → s.RunEnds (ks ++ m :: more) next' k' →
      k = .noKey ∧ (∀ q : Fin 16, next[q] = false) ∧ ∃ q : Fin 16, m[q] = true)

/-- Once halted, a run stays halted with its record, whatever keys the host writes and however many steps it takes: nothing
but the keymap and the recorded outcome changes (R102, R229). -/
def Obligations.HaltedRunStaysHalted : Prop :=
  ∀ (s : State) (r : FaultRecord) (ks : List (Vector Bool 16)), s.halted = some r →
    (s.runKeys ks).halted = some r ∧ Frame [] [.keys, .outcome] s (s.runKeys ks)

/-- The prose of 10_state R21 and R22 over all instructions, and of 60_exceptions R220: an instruction that changes Vz is one of
those that write the register they name (6xkk, 7xkk, 8xy0 to 8xyE, Cxkk, Fx07, Fx0A, with x = z), an Fx65 with x at
least z, or, when z is F, one of those that write VF as a flag; and one that changes `halted` is one R220 says can fault. -/
def Obligations.WritersOfRegistersAndHalt : Prop :=
  ∀ (i : Instr) (s t : State), exec i s = .next t →
    (∀ z : RegIdx, t.reg z ≠ s.reg z →
      (∃ kk, i = .ldByte z kk ∨ i = .addByte z kk ∨ i = .rnd z kk) ∨
      (∃ y, i = .ldReg z y ∨ i = .orReg z y ∨ i = .andReg z y ∨ i = .xorReg z y ∨ i = .addReg z y ∨ i = .subReg z y ∨
        i = .shr z y ∨ i = .subn z y ∨ i = .shl z y) ∨
      i = .ldVxDt z ∨ i = .ldVxK z ∨ (∃ x, z.val ≤ x.val ∧ i = .ldVxMem x) ∨
      (z = 15 ∧ ((∃ x y, i = .addReg x y ∨ i = .subReg x y ∨ i = .shr x y ∨ i = .subn x y ∨ i = .shl x y) ∨
        (∃ x y n, i = .drw x y n) ∨ ∃ x, i = .addI x))) ∧
    (t.halted ≠ s.halted → i = .ret ∨ (∃ nnn, i = .call nnn) ∨ (∃ x y n, i = .drw x y n) ∨
      ∃ x, i = .skp x ∨ i = .sknp x ∨ i = .ldB x ∨ i = .ldMemVx x ∨ i = .ldVxMem x)

/-- A run that reaches a condition of R261 has an end, there or earlier: if, after at least one step, a condition holds of the
state as the next step would see it, then the run ends after some number n of those steps, n not 0, and the keymap the step
after them reads is the schedule's own (logs 31 and 33). -/
def Obligations.RunReachingAConditionEnds : Prop :=
  ∀ (s : State) (ks : List (Vector Bool 16)) (next : Vector Bool 16) (k : EndKind),
    ks ≠ [] → ((s.runKeys ks).setKeys next).EndsBy k →
    ∃ n m k', 0 < n ∧ n ≤ ks.length ∧ (ks ++ [next])[n]? = some m ∧ s.RunEnds (ks.take n) m k'
end

