-- ==== Sys2Proof/Laws/Decode.lean ====
section
/-! SUPPORT. The fields of an assembled word, and the assembly of a word from its fields (30_encoding R71, R73). -/

namespace Sys2Proof

/-! ### The bits of an assembled word -/

theorem wordA_bit (c : BitVec 4) (nnn : Addr12) (j : Nat) :
    (wordA c nnn).getLsbD j = if j < 12 then nnn.getLsbD j else c.getLsbD (j - 12) :=
  (BitVec.getLsbD_append (x := c) (y := nnn) (i := j)).trans (by split <;> simp_all)

theorem wordXKK_bit (c : BitVec 4) (x : RegIdx) (kk : Byte) (j : Nat) :
    (wordXKK c x kk).getLsbD j =
      if j < 8 then kk.getLsbD j else if j < 12 then x.val.testBit (j - 8) else c.getLsbD (j - 12) := by
  refine (BitVec.getLsbD_append (x := c ++ (BitVec.ofFin x : BitVec 4)) (y := kk) (i := j)).trans ?_
  rw [BitVec.getLsbD_append]
  have h1 : j - 8 < 4 ↔ j < 12 := by omega
  have h2 : j - 8 - 4 = j - 12 := by omega
  simp only [h1, h2, BitVec.getLsbD_ofFin]

theorem wordXYN_bit (c n : BitVec 4) (x y : RegIdx) (j : Nat) :
    (wordXYN c x y n).getLsbD j =
      if j < 4 then n.getLsbD j else if j < 8 then y.val.testBit (j - 4)
      else if j < 12 then x.val.testBit (j - 8) else c.getLsbD (j - 12) := by
  refine (BitVec.getLsbD_append (x := c ++ (BitVec.ofFin x : BitVec 4) ++ (BitVec.ofFin y : BitVec 4)) (y := n)
    (i := j)).trans ?_
  rw [BitVec.getLsbD_append, BitVec.getLsbD_append]
  have h1 : j - 4 < 4 ↔ j < 8 := by omega
  have h2 : j - 4 - 4 < 4 ↔ j < 12 := by omega
  have h3 : j - 4 - 4 = j - 8 := by omega
  have h4 : j - 8 - 4 = j - 12 := by omega
  have h5 : j - 8 < 4 ↔ j < 12 := by omega
  simp only [h1, h3, h4, h5, BitVec.getLsbD_ofFin]

/-! ### Its fields -/

@[simp] theorem fieldC_wordA (c : BitVec 4) (nnn : Addr12) : fieldC (wordA c nnn) = c := by
  refine BitVec.eq_of_getLsbD_eq fun k hk => ?_
  simp [fieldC, hk, wordA_bit]

@[simp] theorem fieldNNN_wordA (c : BitVec 4) (nnn : Addr12) : fieldNNN (wordA c nnn) = nnn := by
  refine BitVec.eq_of_getLsbD_eq fun k hk => ?_
  simp [fieldNNN, hk, wordA_bit]

@[simp] theorem fieldC_wordXKK (c : BitVec 4) (x : RegIdx) (kk : Byte) : fieldC (wordXKK c x kk) = c := by
  refine BitVec.eq_of_getLsbD_eq fun k hk => ?_
  have h : ¬ 12 + k < 8 := by omega
  simp [fieldC, hk, wordXKK_bit, h]

@[simp] theorem fieldX_wordXKK (c : BitVec 4) (x : RegIdx) (kk : Byte) : fieldX (wordXKK c x kk) = x := by
  have h : (wordXKK c x kk).extractLsb' 8 4 = (BitVec.ofFin x : BitVec 4) := by
    refine BitVec.eq_of_getLsbD_eq fun k hk => ?_
    have h : 8 + k < 12 := by omega
    simp [hk, wordXKK_bit, h]
  unfold fieldX
  rw [h]

@[simp] theorem fieldKK_wordXKK (c : BitVec 4) (x : RegIdx) (kk : Byte) : fieldKK (wordXKK c x kk) = kk := by
  refine BitVec.eq_of_getLsbD_eq fun k hk => ?_
  simp [fieldKK, hk, wordXKK_bit]

@[simp] theorem fieldC_wordXYN (c n : BitVec 4) (x y : RegIdx) : fieldC (wordXYN c x y n) = c := by
  refine BitVec.eq_of_getLsbD_eq fun k hk => ?_
  have h1 : ¬ 12 + k < 8 := by omega
  have h2 : ¬ 12 + k < 4 := by omega
  simp [fieldC, hk, wordXYN_bit, h1, h2]

@[simp] theorem fieldX_wordXYN (c n : BitVec 4) (x y : RegIdx) : fieldX (wordXYN c x y n) = x := by
  have h : (wordXYN c x y n).extractLsb' 8 4 = (BitVec.ofFin x : BitVec 4) := by
    refine BitVec.eq_of_getLsbD_eq fun k hk => ?_
    have h1 : 8 + k < 12 := by omega
    have h2 : ¬ 8 + k < 4 := by omega
    simp [hk, wordXYN_bit, h1, h2]
  unfold fieldX
  rw [h]

@[simp] theorem fieldY_wordXYN (c n : BitVec 4) (x y : RegIdx) : fieldY (wordXYN c x y n) = y := by
  have h : (wordXYN c x y n).extractLsb' 4 4 = (BitVec.ofFin y : BitVec 4) := by
    refine BitVec.eq_of_getLsbD_eq fun k hk => ?_
    have h1 : 4 + k < 8 := by omega
    simp [hk, wordXYN_bit, h1]
  unfold fieldY
  rw [h]

@[simp] theorem fieldN_wordXYN (c n : BitVec 4) (x y : RegIdx) : fieldN (wordXYN c x y n) = n := by
  refine BitVec.eq_of_getLsbD_eq fun k hk => ?_
  simp [fieldN, hk, wordXYN_bit]

/-! ### Every word is assembled from its fields -/

theorem wordA_fields (op : Word) : wordA (fieldC op) (fieldNNN op) = op := by
  refine BitVec.eq_of_getLsbD_eq fun k hk => ?_
  rw [wordA_bit]
  by_cases h : k < 12
  · simp [fieldNNN, h]
  · have h1 : k - 12 < 4 := by omega
    have h2 : 12 + (k - 12) = k := by omega
    simp [fieldC, h, h1, h2]

theorem fieldX_bit (op : Word) (k : Nat) (h : k < 4) : (fieldX op).val.testBit k = op.getLsbD (8 + k) := by
  have e : (fieldX op).val.testBit k = (op.extractLsb' 8 4).getLsbD k := rfl
  rw [e]; simp [h]

theorem fieldY_bit (op : Word) (k : Nat) (h : k < 4) : (fieldY op).val.testBit k = op.getLsbD (4 + k) := by
  have e : (fieldY op).val.testBit k = (op.extractLsb' 4 4).getLsbD k := rfl
  rw [e]; simp [h]

theorem wordXKK_fields (op : Word) : wordXKK (fieldC op) (fieldX op) (fieldKK op) = op := by
  refine BitVec.eq_of_getLsbD_eq fun k hk => ?_
  rw [wordXKK_bit]
  by_cases h : k < 8
  · simp [fieldKK, h]
  · by_cases h' : k < 12
    · have h1 : k - 8 < 4 := by omega
      have h2 : 8 + (k - 8) = k := by omega
      rw [if_neg h, if_pos h', fieldX_bit _ _ h1, h2]
    · have h1 : k - 12 < 4 := by omega
      have h2 : 12 + (k - 12) = k := by omega
      simp [fieldC, h, h', h1, h2]

theorem wordXYN_fields (op : Word) : wordXYN (fieldC op) (fieldX op) (fieldY op) (fieldN op) = op := by
  refine BitVec.eq_of_getLsbD_eq fun k hk => ?_
  rw [wordXYN_bit]
  by_cases h : k < 4
  · simp [fieldN, h]
  · by_cases h' : k < 8
    · have h1 : k - 4 < 4 := by omega
      have h2 : 4 + (k - 4) = k := by omega
      rw [if_neg h, if_pos h', fieldY_bit _ _ h1, h2]
    · by_cases h'' : k < 12
      · have h1 : k - 8 < 4 := by omega
        have h2 : 8 + (k - 8) = k := by omega
        rw [if_neg h, if_neg h', if_pos h'', fieldX_bit _ _ h1, h2]
      · have h1 : k - 12 < 4 := by omega
        have h2 : 12 + (k - 12) = k := by omega
        simp [fieldC, h, h', h'', h1, h2]

/-! ### Bytes of a word (20_memory R55) -/

@[simp] theorem composeWord_wordBytes (op : Word) :
    composeWord (op.extractLsb' 8 8) (op.extractLsb' 0 8) = op := by
  refine BitVec.eq_of_getLsbD_eq fun k hk => ?_
  refine (BitVec.getLsbD_append (x := op.extractLsb' 8 8) (y := op.extractLsb' 0 8) (i := k)).trans ?_
  by_cases h : k < 8
  · simp [h]
  · have h1 : k - 8 < 8 := by omega
    have h2 : 8 + (k - 8) = k := by omega
    simp [h, h1, h2]

theorem decodeBytes_wordBytes (op : Word) (rest : List Byte) :
    decodeBytes (wordBytes op ++ rest) =
      match decodeWord op with
      | .ok i => .ok (i, rest)
      | .error e => .error e := by
  cases h : decodeWord op <;> simp [wordBytes, decodeBytes, h]

/-! ### Fields of a masked word, and the rows of the opcode map (R85) -/

theorem fieldC_and_top (op : Word) : fieldC (op &&& 0xF000#16) = fieldC op := by
  refine BitVec.eq_of_getLsbD_eq fun k hk => ?_
  simp only [fieldC, BitVec.getLsbD_extractLsb', BitVec.getLsbD_and]
  interval_cases k <;> simp

theorem fieldC_and_outer (op : Word) : fieldC (op &&& 0xF00F#16) = fieldC op := by
  refine BitVec.eq_of_getLsbD_eq fun k hk => ?_
  simp only [fieldC, BitVec.getLsbD_extractLsb', BitVec.getLsbD_and]
  interval_cases k <;> simp

theorem fieldN_and_outer (op : Word) : fieldN (op &&& 0xF00F#16) = fieldN op := by
  refine BitVec.eq_of_getLsbD_eq fun k hk => ?_
  simp only [fieldN, BitVec.getLsbD_extractLsb', BitVec.getLsbD_and]
  interval_cases k <;> simp

theorem fieldC_and_low (op : Word) : fieldC (op &&& 0xF0FF#16) = fieldC op := by
  refine BitVec.eq_of_getLsbD_eq fun k hk => ?_
  simp only [fieldC, BitVec.getLsbD_extractLsb', BitVec.getLsbD_and]
  interval_cases k <;> simp

theorem fieldKK_and_low (op : Word) : fieldKK (op &&& 0xF0FF#16) = fieldKK op := by
  refine BitVec.eq_of_getLsbD_eq fun k hk => ?_
  simp only [fieldKK, BitVec.getLsbD_extractLsb', BitVec.getLsbD_and]
  interval_cases k <;> simp

theorem opcodeRows_clash :
    (opcodeRows.all fun r => opcodeRows.all fun q => r == q || (r.1 &&& q.2) != (q.1 &&& r.2)) = true := by
  rfl

/-- Two different rows disagree on a bit that both fix, so no word matches both. -/
theorem opcodeRows_disjoint {r q : Word × Word} (hr : r ∈ opcodeRows) (hq : q ∈ opcodeRows) (hne : r ≠ q) :
    r.1 &&& q.2 ≠ q.1 &&& r.2 := by
  intro he
  have h := List.all_eq_true.1 (List.all_eq_true.1 opcodeRows_clash r hr) q hq
  simp [hne, he] at h

end Sys2Proof
end

