-- ==== Sys2Proof/Laws/Memory.lean ====
section
/-! SUPPORT. The laws of memory: a read after a write, and that every memory operation keeps the canonical form. The read
laws hold of every list, canonical or not. -/

namespace Sys2Proof.Machine

/-! ### Read after write (20_memory R57, R61) -/

theorem Memory.read_remove_same (m : Memory) (a : Nat) : (m.remove a).read a = Memory.unlisted a := by
  induction m with
  | nil => rfl
  | cons c m ih =>
    obtain ⟨b, w⟩ := c
    by_cases h : b = a
    · simpa [Memory.remove, h] using ih
    · simpa [Memory.remove, Memory.read, h] using ih

theorem Memory.read_remove_ne (m : Memory) (a b : Nat) (h : b ≠ a) : (m.remove a).read b = m.read b := by
  induction m with
  | nil => rfl
  | cons c m ih =>
    obtain ⟨e, w⟩ := c
    by_cases he : e = a
    · have hb : e ≠ b := fun x => h (x.symm.trans he)
      simpa [Memory.remove, Memory.read, he, Ne.symm h] using ih
    · by_cases hb : e = b
      · subst hb
        simp [Memory.remove, Memory.read, he]
      · simpa [Memory.remove, Memory.read, he, hb] using ih

theorem Memory.read_insert_ne (m : Memory) (a b : Nat) (w : Byte) (h : b ≠ a) : (m.insert a w).read b = m.read b := by
  induction m with
  | nil => simp [Memory.insert, Memory.read, Ne.symm h]
  | cons c m ih =>
    obtain ⟨e, u⟩ := c
    by_cases he : a < e
    · simp [Memory.insert, Memory.read, he, Ne.symm h]
    · simp [Memory.insert, Memory.read, he, ih]

/-- Inserting at an address the list does not hold. -/
theorem Memory.read_insert_same (m : Memory) (a : Nat) (w : Byte) (h : ∀ c ∈ m, c.1 ≠ a) :
    (m.insert a w).read a = w := by
  induction m with
  | nil => simp [Memory.insert, Memory.read]
  | cons c m ih =>
    obtain ⟨e, u⟩ := c
    have he : e ≠ a := h (e, u) (by simp)
    by_cases hlt : a < e
    · simp [Memory.insert, Memory.read, hlt]
    · simpa [Memory.insert, Memory.read, hlt, he] using ih (fun c hc => h c (by simp [hc]))

theorem Memory.mem_remove {m : Memory} {a : Nat} {c : Host.Cell} : c ∈ m.remove a ↔ c ∈ m ∧ c.1 ≠ a := by
  simp [Memory.remove]

@[simp] theorem Memory.read_write_same (m : Memory) (a : Nat) (w : Byte) : (m.write a w).read a = w := by
  unfold Memory.write
  split
  · rename_i h; rw [Memory.read_remove_same, h]
  · exact Memory.read_insert_same _ _ _ (fun c hc => (Memory.mem_remove.1 hc).2)

theorem Memory.read_write_ne (m : Memory) (a b : Nat) (w : Byte) (h : b ≠ a) : (m.write a w).read b = m.read b := by
  unfold Memory.write
  split
  · exact Memory.read_remove_ne m a b h
  · rw [Memory.read_insert_ne _ _ _ _ h, Memory.read_remove_ne m a b h]

/-- Everything a write of several bytes can do, one address at a time. -/
theorem Memory.read_writeList (m : Memory) (a b : Nat) (ws : List Byte) :
    (m.writeList a ws).read b = if h : a ≤ b ∧ b < a + ws.length then ws[b - a]'(by omega) else m.read b := by
  induction ws generalizing m a with
  | nil => simp [Memory.writeList]
  | cons w ws ih =>
    rw [Memory.writeList, ih]
    by_cases hb : b = a
    · subst hb
      simp
    · by_cases h : a + 1 ≤ b ∧ b < a + 1 + ws.length
      · have h' : a ≤ b ∧ b < a + (w :: ws).length := by simp only [List.length_cons]; omega
        have e : b - a = (b - (a + 1)) + 1 := by omega
        rw [dif_pos h, dif_pos h']
        simp only [e, List.getElem_cons_succ]
      · have h' : ¬ (a ≤ b ∧ b < a + (w :: ws).length) := by simp only [List.length_cons]; omega
        rw [dif_neg h, dif_neg h', Memory.read_write_ne _ _ _ _ hb]

theorem Memory.read_writeList_outside (m : Memory) (a b : Nat) (ws : List Byte) (h : b < a ∨ a + ws.length ≤ b) :
    (m.writeList a ws).read b = m.read b := by
  rw [Memory.read_writeList, dif_neg (by omega)]

theorem Memory.read_writeList_inside (m : Memory) (a k : Nat) (ws : List Byte) (h : k < ws.length) :
    (m.writeList a ws).read (a + k) = ws[k] := by
  rw [Memory.read_writeList, dif_pos (by omega)]
  simp

/-! ### The canonical form -/

theorem Memory.wf_iff {m : Memory} :
    m.wf = true ↔ m.Pairwise (fun c d => c.1 < d.1) ∧ ∀ c ∈ m, c.1 < Config.memSize ∧ c.2 ≠ Memory.unlisted c.1 := by
  simp [Memory.wf]

theorem Memory.wf_nil : Memory.wf [] = true := by decide

theorem Memory.wf_remove (m : Memory) (a : Nat) (h : m.wf = true) : (m.remove a).wf = true := by
  rw [Memory.wf_iff] at h ⊢
  exact ⟨h.1.filter _, fun c hc => h.2 c (Memory.mem_remove.1 hc).1⟩

theorem Memory.mem_insert {m : Memory} {a : Nat} {w : Byte} {c : Host.Cell} :
    c ∈ m.insert a w ↔ c = (a, w) ∨ c ∈ m := by
  induction m with
  | nil => simp [Memory.insert]
  | cons d m ih =>
    obtain ⟨e, u⟩ := d
    by_cases h : a < e
    · simp [Memory.insert, h]
    · simp only [Memory.insert, h, if_false, List.mem_cons, ih]
      tauto

theorem Memory.pairwise_insert (m : Memory) (a : Nat) (w : Byte) (h : m.Pairwise (fun c d => c.1 < d.1))
    (ha : ∀ c ∈ m, c.1 ≠ a) : (m.insert a w).Pairwise (fun c d => c.1 < d.1) := by
  induction m with
  | nil => simp [Memory.insert]
  | cons d m ih =>
    obtain ⟨e, u⟩ := d
    rw [List.pairwise_cons] at h
    have he : e ≠ a := ha (e, u) (by simp)
    by_cases hlt : a < e
    · simp only [Memory.insert, hlt, if_true, List.pairwise_cons]
      refine ⟨?_, h⟩
      intro c hc
      rcases List.mem_cons.1 hc with rfl | hc
      · exact hlt
      · exact lt_trans hlt (h.1 c hc)
    · simp only [Memory.insert, hlt, if_false, List.pairwise_cons]
      refine ⟨?_, ih h.2 (fun c hc => ha c (by simp [hc]))⟩
      intro c hc
      rcases Memory.mem_insert.1 hc with rfl | hc
      · show e < a
        omega
      · exact h.1 c hc

theorem Memory.wf_write (m : Memory) (a : Nat) (w : Byte) (h : m.wf = true) (ha : a < Config.memSize) :
    (m.write a w).wf = true := by
  unfold Memory.write
  split
  · exact Memory.wf_remove m a h
  · rename_i hw
    have hr := Memory.wf_iff.1 (Memory.wf_remove m a h)
    rw [Memory.wf_iff]
    refine ⟨Memory.pairwise_insert _ _ _ hr.1 (fun c hc => (Memory.mem_remove.1 hc).2), ?_⟩
    intro c hc
    rcases Memory.mem_insert.1 hc with rfl | hc
    · exact ⟨ha, hw⟩
    · exact hr.2 c hc

theorem Memory.wf_writeList (m : Memory) (a : Nat) (ws : List Byte) (h : m.wf = true)
    (ha : a + ws.length ≤ Config.memSize) : (m.writeList a ws).wf = true := by
  induction ws generalizing m a with
  | nil => exact h
  | cons w ws ih =>
    rw [List.length_cons] at ha
    exact ih _ _ (Memory.wf_write m a w h (by omega)) (by omega)

/-- Equal canonical memories are equal data: a canonical memory is fixed by what it reads as. -/
theorem Memory.read_of_mem {m : Memory} (h : m.wf = true) {c : Host.Cell} (hc : c ∈ m) : m.read c.1 = c.2 := by
  have hp := (Memory.wf_iff.1 h).1
  clear h
  induction m with
  | nil => simp at hc
  | cons d m ih =>
    obtain ⟨e, u⟩ := d
    rw [List.pairwise_cons] at hp
    rcases List.mem_cons.1 hc with rfl | hc
    · simp [Memory.read]
    · have := hp.1 c hc
      have hne : e ≠ c.1 := by simp only at this; omega
      simpa [Memory.read, hne] using ih hc hp.2

/-- A byte that differs from what an unlisted address reads as is listed. -/
theorem Memory.mem_of_read (m : Memory) (a : Nat) (h : m.read a ≠ Memory.unlisted a) : (a, m.read a) ∈ m := by
  induction m with
  | nil => exact absurd rfl h
  | cons d m ih =>
    obtain ⟨e, u⟩ := d
    by_cases he : e = a
    · subst he; simp [Memory.read]
    · have hr : Memory.read ((e, u) :: m) a = Memory.read m a := by simp [Memory.read, he]
      rw [hr] at h ⊢
      exact List.mem_cons_of_mem _ (ih h)

end Sys2Proof.Machine
end

