-- ==== Sys2Proof/Laws/State.lean ====
section
/-! SUPPORT. Beside State: for each update, what each field of the result is. All hold by unfolding the update once. -/

namespace Sys2Proof.Machine

variable (s : State)

/-! #### setReg -/
@[simp] theorem State.setReg_v (x : RegIdx) (w : Byte) : (s.setReg x w).v = s.v.set x w := rfl
@[simp] theorem State.setReg_i (x : RegIdx) (w : Byte) : (s.setReg x w).i = s.i := rfl
@[simp] theorem State.setReg_pc (x : RegIdx) (w : Byte) : (s.setReg x w).pc = s.pc := rfl
@[simp] theorem State.setReg_stack (x : RegIdx) (w : Byte) : (s.setReg x w).stack = s.stack := rfl
@[simp] theorem State.setReg_sp (x : RegIdx) (w : Byte) : (s.setReg x w).sp = s.sp := rfl
@[simp] theorem State.setReg_dt (x : RegIdx) (w : Byte) : (s.setReg x w).dt = s.dt := rfl
@[simp] theorem State.setReg_st (x : RegIdx) (w : Byte) : (s.setReg x w).st = s.st := rfl
@[simp] theorem State.setReg_fb (x : RegIdx) (w : Byte) : (s.setReg x w).fb = s.fb := rfl
@[simp] theorem State.setReg_keys (x : RegIdx) (w : Byte) : (s.setReg x w).keys = s.keys := rfl
@[simp] theorem State.setReg_mem (x : RegIdx) (w : Byte) : (s.setReg x w).mem = s.mem := rfl
@[simp] theorem State.setReg_halted (x : RegIdx) (w : Byte) : (s.setReg x w).halted = s.halted := rfl
@[simp] theorem State.setReg_outcome (x : RegIdx) (w : Byte) : (s.setReg x w).outcome = s.outcome := rfl
@[simp] theorem State.setReg_draws (x : RegIdx) (w : Byte) : (s.setReg x w).draws = s.draws := rfl

/-! #### setI -/
@[simp] theorem State.setI_v (w : Word) : (s.setI w).v = s.v := rfl
@[simp] theorem State.setI_i (w : Word) : (s.setI w).i = w := rfl
@[simp] theorem State.setI_pc (w : Word) : (s.setI w).pc = s.pc := rfl
@[simp] theorem State.setI_stack (w : Word) : (s.setI w).stack = s.stack := rfl
@[simp] theorem State.setI_sp (w : Word) : (s.setI w).sp = s.sp := rfl
@[simp] theorem State.setI_dt (w : Word) : (s.setI w).dt = s.dt := rfl
@[simp] theorem State.setI_st (w : Word) : (s.setI w).st = s.st := rfl
@[simp] theorem State.setI_fb (w : Word) : (s.setI w).fb = s.fb := rfl
@[simp] theorem State.setI_keys (w : Word) : (s.setI w).keys = s.keys := rfl
@[simp] theorem State.setI_mem (w : Word) : (s.setI w).mem = s.mem := rfl
@[simp] theorem State.setI_halted (w : Word) : (s.setI w).halted = s.halted := rfl
@[simp] theorem State.setI_outcome (w : Word) : (s.setI w).outcome = s.outcome := rfl
@[simp] theorem State.setI_draws (w : Word) : (s.setI w).draws = s.draws := rfl

/-! #### jump -/
@[simp] theorem State.jump_v (w : Word) : (s.jump w).v = s.v := rfl
@[simp] theorem State.jump_i (w : Word) : (s.jump w).i = s.i := rfl
@[simp] theorem State.jump_pc (w : Word) : (s.jump w).pc = w := rfl
@[simp] theorem State.jump_stack (w : Word) : (s.jump w).stack = s.stack := rfl
@[simp] theorem State.jump_sp (w : Word) : (s.jump w).sp = s.sp := rfl
@[simp] theorem State.jump_dt (w : Word) : (s.jump w).dt = s.dt := rfl
@[simp] theorem State.jump_st (w : Word) : (s.jump w).st = s.st := rfl
@[simp] theorem State.jump_fb (w : Word) : (s.jump w).fb = s.fb := rfl
@[simp] theorem State.jump_keys (w : Word) : (s.jump w).keys = s.keys := rfl
@[simp] theorem State.jump_mem (w : Word) : (s.jump w).mem = s.mem := rfl
@[simp] theorem State.jump_halted (w : Word) : (s.jump w).halted = s.halted := rfl
@[simp] theorem State.jump_outcome (w : Word) : (s.jump w).outcome = s.outcome := rfl
@[simp] theorem State.jump_draws (w : Word) : (s.jump w).draws = s.draws := rfl

/-! #### advance -/
@[simp] theorem State.advance_v (k : Word) : (s.advance k).v = s.v := rfl
@[simp] theorem State.advance_i (k : Word) : (s.advance k).i = s.i := rfl
@[simp] theorem State.advance_pc (k : Word) : (s.advance k).pc = s.pc + k := rfl
@[simp] theorem State.advance_stack (k : Word) : (s.advance k).stack = s.stack := rfl
@[simp] theorem State.advance_sp (k : Word) : (s.advance k).sp = s.sp := rfl
@[simp] theorem State.advance_dt (k : Word) : (s.advance k).dt = s.dt := rfl
@[simp] theorem State.advance_st (k : Word) : (s.advance k).st = s.st := rfl
@[simp] theorem State.advance_fb (k : Word) : (s.advance k).fb = s.fb := rfl
@[simp] theorem State.advance_keys (k : Word) : (s.advance k).keys = s.keys := rfl
@[simp] theorem State.advance_mem (k : Word) : (s.advance k).mem = s.mem := rfl
@[simp] theorem State.advance_halted (k : Word) : (s.advance k).halted = s.halted := rfl
@[simp] theorem State.advance_outcome (k : Word) : (s.advance k).outcome = s.outcome := rfl
@[simp] theorem State.advance_draws (k : Word) : (s.advance k).draws = s.draws := rfl

/-! #### push -/
@[simp] theorem State.push_v (h : s.sp.val < 16) (w : Word) : (s.push h w).v = s.v := rfl
@[simp] theorem State.push_i (h : s.sp.val < 16) (w : Word) : (s.push h w).i = s.i := rfl
@[simp] theorem State.push_pc (h : s.sp.val < 16) (w : Word) : (s.push h w).pc = s.pc := rfl
@[simp] theorem State.push_stack (h : s.sp.val < 16) (w : Word) : (s.push h w).stack = s.stack.set s.sp.val w := rfl
@[simp] theorem State.push_sp (h : s.sp.val < 16) (w : Word) : (s.push h w).sp = ⟨s.sp.val + 1, by omega⟩ := rfl
@[simp] theorem State.push_dt (h : s.sp.val < 16) (w : Word) : (s.push h w).dt = s.dt := rfl
@[simp] theorem State.push_st (h : s.sp.val < 16) (w : Word) : (s.push h w).st = s.st := rfl
@[simp] theorem State.push_fb (h : s.sp.val < 16) (w : Word) : (s.push h w).fb = s.fb := rfl
@[simp] theorem State.push_keys (h : s.sp.val < 16) (w : Word) : (s.push h w).keys = s.keys := rfl
@[simp] theorem State.push_mem (h : s.sp.val < 16) (w : Word) : (s.push h w).mem = s.mem := rfl
@[simp] theorem State.push_halted (h : s.sp.val < 16) (w : Word) : (s.push h w).halted = s.halted := rfl
@[simp] theorem State.push_outcome (h : s.sp.val < 16) (w : Word) : (s.push h w).outcome = s.outcome := rfl
@[simp] theorem State.push_draws (h : s.sp.val < 16) (w : Word) : (s.push h w).draws = s.draws := rfl

/-! #### pop -/
@[simp] theorem State.pop_v : (s.pop).v = s.v := rfl
@[simp] theorem State.pop_i : (s.pop).i = s.i := rfl
@[simp] theorem State.pop_pc : (s.pop).pc = s.pc := rfl
@[simp] theorem State.pop_stack : (s.pop).stack = s.stack := rfl
@[simp] theorem State.pop_sp : (s.pop).sp = ⟨s.sp.val - 1, by omega⟩ := rfl
@[simp] theorem State.pop_dt : (s.pop).dt = s.dt := rfl
@[simp] theorem State.pop_st : (s.pop).st = s.st := rfl
@[simp] theorem State.pop_fb : (s.pop).fb = s.fb := rfl
@[simp] theorem State.pop_keys : (s.pop).keys = s.keys := rfl
@[simp] theorem State.pop_mem : (s.pop).mem = s.mem := rfl
@[simp] theorem State.pop_halted : (s.pop).halted = s.halted := rfl
@[simp] theorem State.pop_outcome : (s.pop).outcome = s.outcome := rfl
@[simp] theorem State.pop_draws : (s.pop).draws = s.draws := rfl

/-! #### setDt -/
@[simp] theorem State.setDt_v (w : Byte) : (s.setDt w).v = s.v := rfl
@[simp] theorem State.setDt_i (w : Byte) : (s.setDt w).i = s.i := rfl
@[simp] theorem State.setDt_pc (w : Byte) : (s.setDt w).pc = s.pc := rfl
@[simp] theorem State.setDt_stack (w : Byte) : (s.setDt w).stack = s.stack := rfl
@[simp] theorem State.setDt_sp (w : Byte) : (s.setDt w).sp = s.sp := rfl
@[simp] theorem State.setDt_dt (w : Byte) : (s.setDt w).dt = w := rfl
@[simp] theorem State.setDt_st (w : Byte) : (s.setDt w).st = s.st := rfl
@[simp] theorem State.setDt_fb (w : Byte) : (s.setDt w).fb = s.fb := rfl
@[simp] theorem State.setDt_keys (w : Byte) : (s.setDt w).keys = s.keys := rfl
@[simp] theorem State.setDt_mem (w : Byte) : (s.setDt w).mem = s.mem := rfl
@[simp] theorem State.setDt_halted (w : Byte) : (s.setDt w).halted = s.halted := rfl
@[simp] theorem State.setDt_outcome (w : Byte) : (s.setDt w).outcome = s.outcome := rfl
@[simp] theorem State.setDt_draws (w : Byte) : (s.setDt w).draws = s.draws := rfl

/-! #### setSt -/
@[simp] theorem State.setSt_v (w : Byte) : (s.setSt w).v = s.v := rfl
@[simp] theorem State.setSt_i (w : Byte) : (s.setSt w).i = s.i := rfl
@[simp] theorem State.setSt_pc (w : Byte) : (s.setSt w).pc = s.pc := rfl
@[simp] theorem State.setSt_stack (w : Byte) : (s.setSt w).stack = s.stack := rfl
@[simp] theorem State.setSt_sp (w : Byte) : (s.setSt w).sp = s.sp := rfl
@[simp] theorem State.setSt_dt (w : Byte) : (s.setSt w).dt = s.dt := rfl
@[simp] theorem State.setSt_st (w : Byte) : (s.setSt w).st = w := rfl
@[simp] theorem State.setSt_fb (w : Byte) : (s.setSt w).fb = s.fb := rfl
@[simp] theorem State.setSt_keys (w : Byte) : (s.setSt w).keys = s.keys := rfl
@[simp] theorem State.setSt_mem (w : Byte) : (s.setSt w).mem = s.mem := rfl
@[simp] theorem State.setSt_halted (w : Byte) : (s.setSt w).halted = s.halted := rfl
@[simp] theorem State.setSt_outcome (w : Byte) : (s.setSt w).outcome = s.outcome := rfl
@[simp] theorem State.setSt_draws (w : Byte) : (s.setSt w).draws = s.draws := rfl

/-! #### setFb -/
@[simp] theorem State.setFb_v (f : Framebuffer) : (s.setFb f).v = s.v := rfl
@[simp] theorem State.setFb_i (f : Framebuffer) : (s.setFb f).i = s.i := rfl
@[simp] theorem State.setFb_pc (f : Framebuffer) : (s.setFb f).pc = s.pc := rfl
@[simp] theorem State.setFb_stack (f : Framebuffer) : (s.setFb f).stack = s.stack := rfl
@[simp] theorem State.setFb_sp (f : Framebuffer) : (s.setFb f).sp = s.sp := rfl
@[simp] theorem State.setFb_dt (f : Framebuffer) : (s.setFb f).dt = s.dt := rfl
@[simp] theorem State.setFb_st (f : Framebuffer) : (s.setFb f).st = s.st := rfl
@[simp] theorem State.setFb_fb (f : Framebuffer) : (s.setFb f).fb = f := rfl
@[simp] theorem State.setFb_keys (f : Framebuffer) : (s.setFb f).keys = s.keys := rfl
@[simp] theorem State.setFb_mem (f : Framebuffer) : (s.setFb f).mem = s.mem := rfl
@[simp] theorem State.setFb_halted (f : Framebuffer) : (s.setFb f).halted = s.halted := rfl
@[simp] theorem State.setFb_outcome (f : Framebuffer) : (s.setFb f).outcome = s.outcome := rfl
@[simp] theorem State.setFb_draws (f : Framebuffer) : (s.setFb f).draws = s.draws := rfl

/-! #### setMem -/
@[simp] theorem State.setMem_v (m : Memory) : (s.setMem m).v = s.v := rfl
@[simp] theorem State.setMem_i (m : Memory) : (s.setMem m).i = s.i := rfl
@[simp] theorem State.setMem_pc (m : Memory) : (s.setMem m).pc = s.pc := rfl
@[simp] theorem State.setMem_stack (m : Memory) : (s.setMem m).stack = s.stack := rfl
@[simp] theorem State.setMem_sp (m : Memory) : (s.setMem m).sp = s.sp := rfl
@[simp] theorem State.setMem_dt (m : Memory) : (s.setMem m).dt = s.dt := rfl
@[simp] theorem State.setMem_st (m : Memory) : (s.setMem m).st = s.st := rfl
@[simp] theorem State.setMem_fb (m : Memory) : (s.setMem m).fb = s.fb := rfl
@[simp] theorem State.setMem_keys (m : Memory) : (s.setMem m).keys = s.keys := rfl
@[simp] theorem State.setMem_mem (m : Memory) : (s.setMem m).mem = m := rfl
@[simp] theorem State.setMem_halted (m : Memory) : (s.setMem m).halted = s.halted := rfl
@[simp] theorem State.setMem_outcome (m : Memory) : (s.setMem m).outcome = s.outcome := rfl
@[simp] theorem State.setMem_draws (m : Memory) : (s.setMem m).draws = s.draws := rfl

/-! #### setKeys -/
@[simp] theorem State.setKeys_v (k : Vector Bool 16) : (s.setKeys k).v = s.v := rfl
@[simp] theorem State.setKeys_i (k : Vector Bool 16) : (s.setKeys k).i = s.i := rfl
@[simp] theorem State.setKeys_pc (k : Vector Bool 16) : (s.setKeys k).pc = s.pc := rfl
@[simp] theorem State.setKeys_stack (k : Vector Bool 16) : (s.setKeys k).stack = s.stack := rfl
@[simp] theorem State.setKeys_sp (k : Vector Bool 16) : (s.setKeys k).sp = s.sp := rfl
@[simp] theorem State.setKeys_dt (k : Vector Bool 16) : (s.setKeys k).dt = s.dt := rfl
@[simp] theorem State.setKeys_st (k : Vector Bool 16) : (s.setKeys k).st = s.st := rfl
@[simp] theorem State.setKeys_fb (k : Vector Bool 16) : (s.setKeys k).fb = s.fb := rfl
@[simp] theorem State.setKeys_keys (k : Vector Bool 16) : (s.setKeys k).keys = k := rfl
@[simp] theorem State.setKeys_mem (k : Vector Bool 16) : (s.setKeys k).mem = s.mem := rfl
@[simp] theorem State.setKeys_halted (k : Vector Bool 16) : (s.setKeys k).halted = s.halted := rfl
@[simp] theorem State.setKeys_outcome (k : Vector Bool 16) : (s.setKeys k).outcome = s.outcome := rfl
@[simp] theorem State.setKeys_draws (k : Vector Bool 16) : (s.setKeys k).draws = s.draws := rfl

/-! #### takeDraw -/
@[simp] theorem State.takeDraw_v : (s.takeDraw).v = s.v := rfl
@[simp] theorem State.takeDraw_i : (s.takeDraw).i = s.i := rfl
@[simp] theorem State.takeDraw_pc : (s.takeDraw).pc = s.pc := rfl
@[simp] theorem State.takeDraw_stack : (s.takeDraw).stack = s.stack := rfl
@[simp] theorem State.takeDraw_sp : (s.takeDraw).sp = s.sp := rfl
@[simp] theorem State.takeDraw_dt : (s.takeDraw).dt = s.dt := rfl
@[simp] theorem State.takeDraw_st : (s.takeDraw).st = s.st := rfl
@[simp] theorem State.takeDraw_fb : (s.takeDraw).fb = s.fb := rfl
@[simp] theorem State.takeDraw_keys : (s.takeDraw).keys = s.keys := rfl
@[simp] theorem State.takeDraw_mem : (s.takeDraw).mem = s.mem := rfl
@[simp] theorem State.takeDraw_halted : (s.takeDraw).halted = s.halted := rfl
@[simp] theorem State.takeDraw_outcome : (s.takeDraw).outcome = s.outcome := rfl
@[simp] theorem State.takeDraw_draws : (s.takeDraw).draws = s.draws + 1 := rfl

/-! #### setOutcome -/
@[simp] theorem State.setOutcome_v (o : StepOutcome) : (s.setOutcome o).v = s.v := rfl
@[simp] theorem State.setOutcome_i (o : StepOutcome) : (s.setOutcome o).i = s.i := rfl
@[simp] theorem State.setOutcome_pc (o : StepOutcome) : (s.setOutcome o).pc = s.pc := rfl
@[simp] theorem State.setOutcome_stack (o : StepOutcome) : (s.setOutcome o).stack = s.stack := rfl
@[simp] theorem State.setOutcome_sp (o : StepOutcome) : (s.setOutcome o).sp = s.sp := rfl
@[simp] theorem State.setOutcome_dt (o : StepOutcome) : (s.setOutcome o).dt = s.dt := rfl
@[simp] theorem State.setOutcome_st (o : StepOutcome) : (s.setOutcome o).st = s.st := rfl
@[simp] theorem State.setOutcome_fb (o : StepOutcome) : (s.setOutcome o).fb = s.fb := rfl
@[simp] theorem State.setOutcome_keys (o : StepOutcome) : (s.setOutcome o).keys = s.keys := rfl
@[simp] theorem State.setOutcome_mem (o : StepOutcome) : (s.setOutcome o).mem = s.mem := rfl
@[simp] theorem State.setOutcome_halted (o : StepOutcome) : (s.setOutcome o).halted = s.halted := rfl
@[simp] theorem State.setOutcome_outcome (o : StepOutcome) : (s.setOutcome o).outcome = some o := rfl
@[simp] theorem State.setOutcome_draws (o : StepOutcome) : (s.setOutcome o).draws = s.draws := rfl

/-! #### stayHalted -/
@[simp] theorem State.stayHalted_v (r : FaultRecord) : (s.stayHalted r).v = s.v := rfl
@[simp] theorem State.stayHalted_i (r : FaultRecord) : (s.stayHalted r).i = s.i := rfl
@[simp] theorem State.stayHalted_pc (r : FaultRecord) : (s.stayHalted r).pc = s.pc := rfl
@[simp] theorem State.stayHalted_stack (r : FaultRecord) : (s.stayHalted r).stack = s.stack := rfl
@[simp] theorem State.stayHalted_sp (r : FaultRecord) : (s.stayHalted r).sp = s.sp := rfl
@[simp] theorem State.stayHalted_dt (r : FaultRecord) : (s.stayHalted r).dt = s.dt := rfl
@[simp] theorem State.stayHalted_st (r : FaultRecord) : (s.stayHalted r).st = s.st := rfl
@[simp] theorem State.stayHalted_fb (r : FaultRecord) : (s.stayHalted r).fb = s.fb := rfl
@[simp] theorem State.stayHalted_keys (r : FaultRecord) : (s.stayHalted r).keys = s.keys := rfl
@[simp] theorem State.stayHalted_mem (r : FaultRecord) : (s.stayHalted r).mem = s.mem := rfl
@[simp] theorem State.stayHalted_halted (r : FaultRecord) : (s.stayHalted r).halted = s.halted := rfl
@[simp] theorem State.stayHalted_outcome (r : FaultRecord) : (s.stayHalted r).outcome = some (.faulted r) := rfl
@[simp] theorem State.stayHalted_draws (r : FaultRecord) : (s.stayHalted r).draws = s.draws := rfl

/-! #### enterFault -/
@[simp] theorem State.enterFault_v (k : FaultKind) (op : Option Word) (n : Nat) : (s.enterFault k op n).v = s.v := rfl
@[simp] theorem State.enterFault_i (k : FaultKind) (op : Option Word) (n : Nat) : (s.enterFault k op n).i = s.i := rfl
@[simp] theorem State.enterFault_pc (k : FaultKind) (op : Option Word) (n : Nat) : (s.enterFault k op n).pc = s.pc := rfl
@[simp] theorem State.enterFault_stack (k : FaultKind) (op : Option Word) (n : Nat) : (s.enterFault k op n).stack = s.stack := rfl
@[simp] theorem State.enterFault_sp (k : FaultKind) (op : Option Word) (n : Nat) : (s.enterFault k op n).sp = s.sp := rfl
@[simp] theorem State.enterFault_dt (k : FaultKind) (op : Option Word) (n : Nat) : (s.enterFault k op n).dt = s.dt := rfl
@[simp] theorem State.enterFault_st (k : FaultKind) (op : Option Word) (n : Nat) : (s.enterFault k op n).st = s.st := rfl
@[simp] theorem State.enterFault_fb (k : FaultKind) (op : Option Word) (n : Nat) : (s.enterFault k op n).fb = s.fb := rfl
@[simp] theorem State.enterFault_keys (k : FaultKind) (op : Option Word) (n : Nat) : (s.enterFault k op n).keys = s.keys := rfl
@[simp] theorem State.enterFault_mem (k : FaultKind) (op : Option Word) (n : Nat) : (s.enterFault k op n).mem = s.mem := rfl
@[simp] theorem State.enterFault_halted (k : FaultKind) (op : Option Word) (n : Nat) : (s.enterFault k op n).halted = some ⟨k, s.pc, op, n⟩ := rfl
@[simp] theorem State.enterFault_outcome (k : FaultKind) (op : Option Word) (n : Nat) : (s.enterFault k op n).outcome = some (.faulted ⟨k, s.pc, op, n⟩) := rfl
@[simp] theorem State.enterFault_draws (k : FaultKind) (op : Option Word) (n : Nat) : (s.enterFault k op n).draws = s.draws := rfl

/-! #### tick -/
@[simp] theorem State.tick_v : (s.tick).v = s.v := rfl
@[simp] theorem State.tick_i : (s.tick).i = s.i := rfl
@[simp] theorem State.tick_pc : (s.tick).pc = s.pc := rfl
@[simp] theorem State.tick_stack : (s.tick).stack = s.stack := rfl
@[simp] theorem State.tick_sp : (s.tick).sp = s.sp := rfl
@[simp] theorem State.tick_dt : (s.tick).dt = tickByte s.dt := rfl
@[simp] theorem State.tick_st : (s.tick).st = tickByte s.st := rfl
@[simp] theorem State.tick_fb : (s.tick).fb = s.fb := rfl
@[simp] theorem State.tick_keys : (s.tick).keys = s.keys := rfl
@[simp] theorem State.tick_mem : (s.tick).mem = s.mem := rfl
@[simp] theorem State.tick_halted : (s.tick).halted = s.halted := rfl
@[simp] theorem State.tick_outcome : (s.tick).outcome = s.outcome := rfl
@[simp] theorem State.tick_draws : (s.tick).draws = s.draws := rfl

/-! #### loadRegs -/
@[simp] theorem State.loadRegs_v (ks : List RegIdx) : (s.loadRegs ks).v = ks.foldl (fun v (k : RegIdx) => v.set k.val (s.mem.read (s.i.toNat + k.val))) s.v := rfl
@[simp] theorem State.loadRegs_i (ks : List RegIdx) : (s.loadRegs ks).i = s.i := rfl
@[simp] theorem State.loadRegs_pc (ks : List RegIdx) : (s.loadRegs ks).pc = s.pc := rfl
@[simp] theorem State.loadRegs_stack (ks : List RegIdx) : (s.loadRegs ks).stack = s.stack := rfl
@[simp] theorem State.loadRegs_sp (ks : List RegIdx) : (s.loadRegs ks).sp = s.sp := rfl
@[simp] theorem State.loadRegs_dt (ks : List RegIdx) : (s.loadRegs ks).dt = s.dt := rfl
@[simp] theorem State.loadRegs_st (ks : List RegIdx) : (s.loadRegs ks).st = s.st := rfl
@[simp] theorem State.loadRegs_fb (ks : List RegIdx) : (s.loadRegs ks).fb = s.fb := rfl
@[simp] theorem State.loadRegs_keys (ks : List RegIdx) : (s.loadRegs ks).keys = s.keys := rfl
@[simp] theorem State.loadRegs_mem (ks : List RegIdx) : (s.loadRegs ks).mem = s.mem := rfl
@[simp] theorem State.loadRegs_halted (ks : List RegIdx) : (s.loadRegs ks).halted = s.halted := rfl
@[simp] theorem State.loadRegs_outcome (ks : List RegIdx) : (s.loadRegs ks).outcome = s.outcome := rfl
@[simp] theorem State.loadRegs_draws (ks : List RegIdx) : (s.loadRegs ks).draws = s.draws := rfl

/-! #### placeWord -/
@[simp] theorem State.placeWord_v (op : Word) : (s.placeWord op).v = s.v := rfl
@[simp] theorem State.placeWord_i (op : Word) : (s.placeWord op).i = s.i := rfl
@[simp] theorem State.placeWord_pc (op : Word) : (s.placeWord op).pc = s.pc := rfl
@[simp] theorem State.placeWord_stack (op : Word) : (s.placeWord op).stack = s.stack := rfl
@[simp] theorem State.placeWord_sp (op : Word) : (s.placeWord op).sp = s.sp := rfl
@[simp] theorem State.placeWord_dt (op : Word) : (s.placeWord op).dt = s.dt := rfl
@[simp] theorem State.placeWord_st (op : Word) : (s.placeWord op).st = s.st := rfl
@[simp] theorem State.placeWord_fb (op : Word) : (s.placeWord op).fb = s.fb := rfl
@[simp] theorem State.placeWord_keys (op : Word) : (s.placeWord op).keys = s.keys := rfl
@[simp] theorem State.placeWord_mem (op : Word) : (s.placeWord op).mem = s.mem.writeList s.pc.toNat (wordBytes op) := rfl
@[simp] theorem State.placeWord_halted (op : Word) : (s.placeWord op).halted = none := rfl
@[simp] theorem State.placeWord_outcome (op : Word) : (s.placeWord op).outcome = s.outcome := rfl
@[simp] theorem State.placeWord_draws (op : Word) : (s.placeWord op).draws = s.draws := rfl

/-! #### The general registers, keys and pixels through the updates -/

theorem State.reg_eq (x : RegIdx) : s.reg x = s.v[x] := rfl

@[simp] theorem State.reg_setReg_same (x : RegIdx) (w : Byte) : (s.setReg x w).reg x = w := by
  simp [State.reg, State.setReg]

theorem State.reg_setReg_ne (x z : RegIdx) (w : Byte) (h : z ≠ x) : (s.setReg x w).reg z = s.reg z := by
  have h' : x.val ≠ z.val := fun e => h (Fin.ext e.symm)
  simp [State.reg, State.setReg, Vector.getElem_set_ne _ _ h']

theorem State.reg_setReg (x z : RegIdx) (w : Byte) : (s.setReg x w).reg z = if z = x then w else s.reg z := by
  split
  · rename_i h; subst h; simp
  · rename_i h; exact s.reg_setReg_ne x z w h

@[simp] theorem State.setI_reg (w : Word) (z : RegIdx) : (s.setI w).reg z = s.reg z := rfl
@[simp] theorem State.jump_reg (w : Word) (z : RegIdx) : (s.jump w).reg z = s.reg z := rfl
@[simp] theorem State.advance_reg (k : Word) (z : RegIdx) : (s.advance k).reg z = s.reg z := rfl
@[simp] theorem State.push_reg (h : s.sp.val < 16) (w : Word) (z : RegIdx) : (s.push h w).reg z = s.reg z := rfl
@[simp] theorem State.pop_reg (z : RegIdx) : (s.pop).reg z = s.reg z := rfl
@[simp] theorem State.setDt_reg (w : Byte) (z : RegIdx) : (s.setDt w).reg z = s.reg z := rfl
@[simp] theorem State.setSt_reg (w : Byte) (z : RegIdx) : (s.setSt w).reg z = s.reg z := rfl
@[simp] theorem State.setFb_reg (f : Framebuffer) (z : RegIdx) : (s.setFb f).reg z = s.reg z := rfl
@[simp] theorem State.setMem_reg (m : Memory) (z : RegIdx) : (s.setMem m).reg z = s.reg z := rfl
@[simp] theorem State.setKeys_reg (k : Vector Bool 16) (z : RegIdx) : (s.setKeys k).reg z = s.reg z := rfl
@[simp] theorem State.takeDraw_reg (z : RegIdx) : (s.takeDraw).reg z = s.reg z := rfl
@[simp] theorem State.setOutcome_reg (o : StepOutcome) (z : RegIdx) : (s.setOutcome o).reg z = s.reg z := rfl
@[simp] theorem State.stayHalted_reg (r : FaultRecord) (z : RegIdx) : (s.stayHalted r).reg z = s.reg z := rfl
@[simp] theorem State.enterFault_reg (k : FaultKind) (op : Option Word) (n : Nat) (z : RegIdx) : (s.enterFault k op n).reg z = s.reg z := rfl
@[simp] theorem State.tick_reg (z : RegIdx) : (s.tick).reg z = s.reg z := rfl
@[simp] theorem State.placeWord_reg (op : Word) (z : RegIdx) : (s.placeWord op).reg z = s.reg z := rfl

@[simp] theorem State.setReg_key (x : RegIdx) (w : Byte) (q : RegIdx) : (s.setReg x w).key q = s.key q := rfl
@[simp] theorem State.setI_key (w : Word) (q : RegIdx) : (s.setI w).key q = s.key q := rfl
@[simp] theorem State.jump_key (w : Word) (q : RegIdx) : (s.jump w).key q = s.key q := rfl
@[simp] theorem State.advance_key (k : Word) (q : RegIdx) : (s.advance k).key q = s.key q := rfl
@[simp] theorem State.push_key (h : s.sp.val < 16) (w : Word) (q : RegIdx) : (s.push h w).key q = s.key q := rfl
@[simp] theorem State.pop_key (q : RegIdx) : (s.pop).key q = s.key q := rfl
@[simp] theorem State.setDt_key (w : Byte) (q : RegIdx) : (s.setDt w).key q = s.key q := rfl
@[simp] theorem State.setSt_key (w : Byte) (q : RegIdx) : (s.setSt w).key q = s.key q := rfl
@[simp] theorem State.setFb_key (f : Framebuffer) (q : RegIdx) : (s.setFb f).key q = s.key q := rfl
@[simp] theorem State.setMem_key (m : Memory) (q : RegIdx) : (s.setMem m).key q = s.key q := rfl
@[simp] theorem State.takeDraw_key (q : RegIdx) : (s.takeDraw).key q = s.key q := rfl
@[simp] theorem State.setOutcome_key (o : StepOutcome) (q : RegIdx) : (s.setOutcome o).key q = s.key q := rfl
@[simp] theorem State.stayHalted_key (r : FaultRecord) (q : RegIdx) : (s.stayHalted r).key q = s.key q := rfl
@[simp] theorem State.enterFault_key (k : FaultKind) (op : Option Word) (n : Nat) (q : RegIdx) : (s.enterFault k op n).key q = s.key q := rfl
@[simp] theorem State.tick_key (q : RegIdx) : (s.tick).key q = s.key q := rfl
@[simp] theorem State.loadRegs_key (ks : List RegIdx) (q : RegIdx) : (s.loadRegs ks).key q = s.key q := rfl
@[simp] theorem State.placeWord_key (op : Word) (q : RegIdx) : (s.placeWord op).key q = s.key q := rfl

end Sys2Proof.Machine
end

