-- ==== Sys2Proof/Laws/Ops.lean ====
section
/-! SUPPORT. For each shared operation, once, everything it can do: what the provers cite instead of unfolding it. -/

namespace Sys2Proof.Machine

/-! ### The end of an instruction and of a step -/

@[simp] theorem complete_eq (d : Bool) (s : State) : complete d s = .next (s.setOutcome (.done d)) := rfl

@[simp] theorem block_eq (s : State) : block s = .next (s.setOutcome .blocked) := rfl

@[simp] theorem raise_eq (k : FaultKind) (i : Instr) (n : Nat) (s : State) :
    raise k i n s = .next (s.enterFault k (some (encode i)) n) := rfl

theorem State.finish_of_done {s : State} {d : Bool} (h : s.outcome = some (.done d)) : s.finish = s.tick := by
  simp [State.finish, h]

theorem State.finish_of_blocked {s : State} (h : s.outcome = some .blocked) : s.finish = s := by
  simp [State.finish, h]

theorem State.finish_of_faulted {s : State} {r : FaultRecord} (h : s.outcome = some (.faulted r)) : s.finish = s := by
  simp [State.finish, h]

theorem State.finish_of_not_done {s : State} (h : ∀ d, s.outcome ≠ some (.done d)) : s.finish = s := by
  unfold State.finish
  split
  · rename_i d hd; exact absurd hd (h d)
  all_goals rfl

theorem State.finish_cases (s : State) : s.finish = s.tick ∨ s.finish = s := by
  unfold State.finish
  split <;> simp

@[simp] theorem finishStep_next (s : State) : finishStep (.next s) = .next s.finish := rfl

theorem finishStep_eq_next {o : Host.Outcome State Fault Refusal} {t : State} (h : finishStep o = .next t) :
    ∃ u, o = .next u ∧ t = u.finish := by
  cases o with
  | next u => exact ⟨u, rfl, by simpa using h.symm⟩
  | fault r => cases r
  | refused r => simp [finishStep] at h

theorem tickByte_toNat (t : Byte) : (tickByte t).toNat = t.toNat - 1 := by
  have h : ∀ t : Byte, (tickByte t).toNat = t.toNat - 1 := by decide
  exact h t

/-! ### Frames -/

theorem Frame.refl (s : State) : Frame [] [] s s :=
  ⟨fun _ _ => rfl, fun p _ => by cases p <;> simp [Part.same]⟩

theorem Frame.mono {rs rs' : List RegIdx} {ps ps' : List Part} {s t : State} (h : Frame rs ps s t)
    (hr : ∀ z ∈ rs, z ∈ rs') (hp : ∀ p ∈ ps, p ∈ ps') : Frame rs' ps' s t :=
  ⟨fun z hz => h.regsKept z (fun x => hz (hr z x)), fun p hq => h.partsKept p (fun x => hq (hp p x))⟩

theorem Part.same_trans {s t u : State} {p : Part} (h : p.same s t) (h' : p.same t u) : p.same s u := by
  cases p
  case mem => intro a; exact (h' a).trans (h a)
  all_goals exact Eq.trans h' h

theorem Frame.trans {rs : List RegIdx} {ps : List Part} {s t u : State} (h : Frame rs ps s t) (h' : Frame rs ps t u) :
    Frame rs ps s u :=
  ⟨fun z hz => (h'.regsKept z hz).trans (h.regsKept z hz),
    fun p hp => Part.same_trans (h.partsKept p hp) (h'.partsKept p hp)⟩

theorem frame_tick (s : State) : Frame [] [.dt, .st] s s.tick :=
  ⟨fun _ _ => rfl, fun p hp => by cases p <;> simp_all [Part.same]⟩

theorem frame_enterFault (s : State) (k : FaultKind) (op : Option Word) (n : Nat) :
    Frame [] [.halted, .outcome] s (s.enterFault k op n) :=
  ⟨fun _ _ => rfl, fun p hp => by cases p <;> simp_all [Part.same]⟩

theorem frame_setOutcome (s : State) (o : StepOutcome) : Frame [] [.outcome] s (s.setOutcome o) :=
  ⟨fun _ _ => rfl, fun p hp => by cases p <;> simp_all [Part.same]⟩

/-! ### Memory operands -/

theorem State.memRead_eq (s : State) (a : Nat) :
    s.memRead a = if a > 0xFFF then .error a else .ok (s.mem.read a) := rfl

theorem State.memRead_of_le (s : State) {a : Nat} (h : a ≤ 0xFFF) : s.memRead a = .ok (s.mem.read a) := by
  simp [State.memRead, Nat.not_lt.2 h]

theorem State.memRead_of_gt (s : State) {a : Nat} (h : 0xFFF < a) : s.memRead a = .error a := by
  simp [State.memRead, h]

theorem State.rangeFault_of_le (s : State) {k : Nat} (h : s.i.toNat + k ≤ 0xFFF) : s.rangeFault k = none := by
  simp [State.rangeFault, Nat.not_lt.2 h]

theorem State.rangeFault_of_gt (s : State) {k : Nat} (h : 0xFFF < s.i.toNat + k) :
    s.rangeFault k = some (max s.i.toNat 0x1000) := by
  simp [State.rangeFault, h]

@[simp] theorem mem_regsUpTo (x k : RegIdx) : k ∈ regsUpTo x ↔ k.val ≤ x.val := by
  simp [regsUpTo, List.mem_finRange]

theorem regsUpTo_length (x : RegIdx) : (regsUpTo x).length = x.val + 1 := by
  have h : ∀ x : RegIdx, (regsUpTo x).length = x.val + 1 := by decide
  exact h x

theorem regsUpTo_get? (x k : RegIdx) (h : k.val ≤ x.val) : (regsUpTo x)[k.val]? = some k := by
  have h' : ∀ x k : RegIdx, k.val ≤ x.val → (regsUpTo x)[k.val]? = some k := by decide
  exact h' x k h

theorem State.regBytes_length (s : State) (x : RegIdx) : (s.regBytes x).length = x.val + 1 := by
  simp [State.regBytes, regsUpTo_length]

theorem State.regBytes_get (s : State) (x k : RegIdx) (h : k.val ≤ x.val) (hk : k.val < (s.regBytes x).length) :
    (s.regBytes x)[k.val] = s.reg k := by
  have h2 : (s.regBytes x)[k.val]? = some (s.reg k) := by
    rw [State.regBytes, List.getElem?_map, regsUpTo_get? x k h]
    rfl
  rw [List.getElem?_eq_getElem hk] at h2
  exact Option.some.inj h2

theorem vector_foldl_set (f : RegIdx → Byte) (ks : List RegIdx) (v : Vector Byte 16) (z : RegIdx) :
    (ks.foldl (fun v (k : RegIdx) => v.set k.val (f k)) v)[z] = if z ∈ ks then f z else v[z] := by
  induction ks generalizing v with
  | nil => simp
  | cons k ks ih =>
    rw [List.foldl_cons, ih]
    by_cases hz : z ∈ ks
    · simp [hz]
    · by_cases hk : z = k
      · subst hk; simp [hz]
      · have h' : k.val ≠ z.val := fun e => hk (Fin.ext e.symm)
        simp [hz, hk, Vector.getElem_set_ne _ _ h']

theorem State.reg_loadRegs (s : State) (ks : List RegIdx) (z : RegIdx) :
    (s.loadRegs ks).reg z = if z ∈ ks then s.mem.read (s.i.toNat + z.val) else s.reg z :=
  vector_foldl_set (fun k => s.mem.read (s.i.toNat + k.val)) ks s.v z

theorem decimalDigits_length (w : Byte) : (decimalDigits w).length = 3 := rfl

/-! ### Skips -/

theorem State.skipIf_eq (s : State) (b : Bool) : s.skipIf b = s.advance (if b then 4#16 else 2#16) := by
  cases b <;> rfl

/-! ### Keys -/

theorem keyIndex_eq_some {w : Byte} {k : RegIdx} : keyIndex w = some k ↔ w.toNat = k.val := by
  unfold keyIndex
  split
  · rename_i h
    constructor
    · intro e; rw [← Option.some.inj e]
    · intro e; exact congrArg some (Fin.ext e)
  · rename_i h
    constructor
    · intro e; cases e
    · intro e; exact absurd (e ▸ k.isLt) h

theorem keyIndex_eq_none {w : Byte} : keyIndex w = none ↔ 15 < w.toNat := by
  unfold keyIndex
  split
  · rename_i h; simp; omega
  · rename_i h; simp; omega

theorem State.mem_pressedKeys (s : State) (k : RegIdx) : k ∈ s.pressedKeys ↔ s.key k = true := by
  simp [State.pressedKeys, List.mem_finRange]

theorem State.pressedKeys_eq_nil (s : State) : s.pressedKeys = [] ↔ ∀ k, s.key k = false := by
  simp [State.pressedKeys, List.filter_eq_nil_iff, List.mem_finRange]

/-- Whatever the draw, the key chosen is one of the list. -/
theorem pickKey_mem (d : Nat) (k : RegIdx) (ks : List RegIdx) : pickKey d k ks ∈ k :: ks := by
  have h : d % (k :: ks).length < (k :: ks).length := Nat.mod_lt _ (by simp)
  unfold pickKey
  rw [List.getD_eq_getElem _ _ h]
  exact List.getElem_mem h

/-! ### Fetch, decode, step -/

theorem State.fetchWord_of_le (s : State) (h : s.pc.toNat ≤ 0xFFE) :
    s.fetchWord = .ok (composeWord (s.mem.read s.pc.toNat) (s.mem.read (s.pc.toNat + 1))) := by
  simp [State.fetchWord, s.memRead_of_le (show s.pc.toNat ≤ 0xFFF by omega),
    s.memRead_of_le (show s.pc.toNat + 1 ≤ 0xFFF by omega)]

theorem State.fetchWord_of_gt (s : State) (h : 0xFFE < s.pc.toNat) : s.fetchWord = .error (max s.pc.toNat 0x1000) := by
  by_cases h' : 0xFFF < s.pc.toNat
  · rw [State.fetchWord, s.memRead_of_gt h', max_eq_left (by omega)]
  · have e : s.pc.toNat = 0xFFF := by omega
    have h1 : s.memRead s.pc.toNat = .ok (s.mem.read s.pc.toNat) := s.memRead_of_le (by omega)
    rw [State.fetchWord, h1]
    simp only [e]
    rfl

theorem State.fetchWord_ok_le {s : State} {op : Word} (h : s.fetchWord = .ok op) : s.pc.toNat ≤ 0xFFE := by
  by_contra hgt
  rw [s.fetchWord_of_gt (by omega)] at h
  cases h

theorem State.fetchDecode_of_halted {s : State} {r : FaultRecord} (h : s.halted = some r) :
    s.fetchDecode = .error (s.stayHalted r) := by
  simp [State.fetchDecode, h]

theorem State.fetchDecode_of_fetch_error {s : State} {a : Nat} (h : s.halted = none) (hf : s.fetchWord = .error a) :
    s.fetchDecode = .error (s.enterFault .memOutOfRange none a) := by
  simp [State.fetchDecode, h, hf]

theorem State.fetchDecode_of_decode_error {s : State} {op : Word} {e : Reject} (h : s.halted = none)
    (hf : s.fetchWord = .ok op) (hd : decodeWord op = .error e) :
    s.fetchDecode = .error (s.enterFault .decodeError (some op) op.toNat) := by
  simp [State.fetchDecode, h, hf, hd]

theorem State.fetchDecode_ok_iff {s : State} {i : Instr} :
    s.fetchDecode = .ok i ↔ s.halted = none ∧ ∃ op, s.fetchWord = .ok op ∧ decodeWord op = .ok i := by
  unfold State.fetchDecode
  split
  · rename_i r hr; simp [hr]
  · rename_i hr
    split
    · rename_i a ha; simp [ha]
    · rename_i op hop
      split
      · rename_i e he; simp [hop, he, hr]
      · rename_i j hj; simp [hop, hj, hr]

/-- Everything the phases before the instruction can do. -/
theorem State.fetchDecode_cases (s : State) :
    (∃ r, s.halted = some r ∧ s.fetchDecode = .error (s.stayHalted r)) ∨
    (∃ a, s.halted = none ∧ s.fetchWord = .error a ∧ s.fetchDecode = .error (s.enterFault .memOutOfRange none a)) ∨
    (∃ op e, s.halted = none ∧ s.fetchWord = .ok op ∧ decodeWord op = .error e ∧
      s.fetchDecode = .error (s.enterFault .decodeError (some op) op.toNat)) ∨
    (∃ op i, s.halted = none ∧ s.fetchWord = .ok op ∧ decodeWord op = .ok i ∧ s.fetchDecode = .ok i) := by
  cases hh : s.halted with
  | some r => exact .inl ⟨r, rfl, s.fetchDecode_of_halted hh⟩
  | none =>
    cases hf : s.fetchWord with
    | error a => exact .inr (.inl ⟨a, rfl, rfl, State.fetchDecode_of_fetch_error hh hf⟩)
    | ok op =>
      cases hd : decodeWord op with
      | error e => exact .inr (.inr (.inl ⟨op, e, rfl, rfl, hd, State.fetchDecode_of_decode_error hh hf hd⟩))
      | ok i =>
        exact .inr (.inr (.inr ⟨op, i, rfl, rfl, hd, State.fetchDecode_ok_iff.2 ⟨hh, op, hf, hd⟩⟩))

theorem step_of_error {s t : State} (h : s.fetchDecode = .error t) : step s = .next t := by
  simp [step, h]

theorem step_of_ok {s : State} {i : Instr} (h : s.fetchDecode = .ok i) : step s = finishStep (exec i s) := by
  simp [step, h]

/-- Everything a step can do: stay halted, fault on the fetch or the decode, or run the fetched instruction and finish. -/
theorem step_cases {s t : State} (h : step s = .next t) :
    (∃ r, s.halted = some r ∧ t = s.stayHalted r) ∨
    (∃ a, s.halted = none ∧ s.fetchWord = .error a ∧ t = s.enterFault .memOutOfRange none a) ∨
    (∃ op e, s.halted = none ∧ s.fetchWord = .ok op ∧ decodeWord op = .error e ∧
      t = s.enterFault .decodeError (some op) op.toNat) ∨
    (∃ op i u, s.halted = none ∧ s.fetchWord = .ok op ∧ decodeWord op = .ok i ∧ exec i s = .next u ∧ t = u.finish) := by
  rcases s.fetchDecode_cases with ⟨r, h1, h2⟩ | ⟨a, h1, h2, h3⟩ | ⟨op, e, h1, h2, h3, h4⟩ | ⟨op, i, h1, h2, h3, h4⟩
  · rw [step_of_error h2] at h
    exact .inl ⟨r, h1, by simpa using h.symm⟩
  · rw [step_of_error h3] at h
    exact .inr (.inl ⟨a, h1, h2, by simpa using h.symm⟩)
  · rw [step_of_error h4] at h
    exact .inr (.inr (.inl ⟨op, e, h1, h2, h3, by simpa using h.symm⟩))
  · rw [step_of_ok h4] at h
    obtain ⟨u, hu, ht⟩ := finishStep_eq_next h
    exact .inr (.inr (.inr ⟨op, i, u, h1, h2, h3, hu, ht⟩))

end Sys2Proof.Machine
end

