-- ==== Sys2Proof/Laws/Display.lean ====
section
/-! SUPPORT. The sprite of Dxyn: which cells a row and a whole sprite name, what the check phase answers, and what the write
phase does to each cell (44_display R191, R192). -/

namespace Sys2Proof.Machine

/-! ### The cells of one row -/

theorem mem_spriteCells {b : Byte} {x y row j : Nat} :
    j ∈ spriteCells b x y row ↔ ∃ col, col < 8 ∧ b.getLsbD (7 - col) = true ∧ j = (x + col) + (y + row) * 64 := by
  simp only [spriteCells, List.mem_map, List.mem_filter, List.mem_range, Config.fbWidth]
  constructor
  · rintro ⟨col, ⟨h1, h2⟩, rfl⟩
    exact ⟨col, h1, h2, rfl⟩
  · rintro ⟨col, h1, h2, rfl⟩
    exact ⟨col, ⟨h1, h2⟩, rfl⟩

theorem spriteCells_nodup (b : Byte) (x y row : Nat) : (spriteCells b x y row).Nodup := by
  refine List.Nodup.map_on ?_ (List.Nodup.filter _ List.nodup_range)
  intro c _ d _ h
  omega

/-- The first out-of-range cell of a row is the one of its least such column. -/
theorem find_spriteCells_some {b : Byte} {x y row col : Nat} (hc : col < 8) (hb : b.getLsbD (7 - col) = true)
    (hj : 2047 < (x + col) + (y + row) * 64)
    (hmin : ∀ c, c < col → b.getLsbD (7 - c) = true → (x + c) + (y + row) * 64 ≤ 2047) :
    (spriteCells b x y row).find? (fun j => decide (Config.fbCells ≤ j)) = some ((x + col) + (y + row) * 64) := by
  have key : ((List.range 8).filter (fun col => b.getLsbD (7 - col))).find?
      (fun c => decide (Config.fbCells ≤ (x + c) + (y + row) * Config.fbWidth)) = some col := by
    rw [List.find?_filter, List.find?_range_eq_some]
    refine ⟨?_, by simp [hc], ?_⟩
    · exact decide_eq_true ⟨hb, decide_eq_true (show 2048 ≤ (x + col) + (y + row) * 64 by omega)⟩
    · intro c hcc
      by_cases hbc : b.getLsbD (7 - c) = true
      · have hle := hmin c hcc hbc
        have hd : decide (Config.fbCells ≤ (x + c) + (y + row) * Config.fbWidth) = false :=
          decide_eq_false (show ¬ 2048 ≤ (x + c) + (y + row) * 64 by omega)
        simp [hbc, hd]
      · simp [hbc]
  rw [spriteCells, List.find?_map]
  simp only [Function.comp_def]
  rw [key]
  simp [Config.fbWidth]

/-! ### The check phase -/

theorem State.scanRow_ok {s : State} {x y row : Nat} (hr : s.i.toNat + row ≤ 0xFFF)
    (hc : ∀ j ∈ spriteCells (s.mem.read (s.i.toNat + row)) x y row, j ≤ 2047) :
    s.scanRow x y row = .ok (spriteCells (s.mem.read (s.i.toNat + row)) x y row) := by
  have hf : (spriteCells (s.mem.read (s.i.toNat + row)) x y row).find? (fun j => decide (Config.fbCells ≤ j)) = none := by
    rw [List.find?_eq_none]
    intro j hj
    have hle := hc j hj
    have hd : decide (Config.fbCells ≤ j) = false := decide_eq_false (show ¬ 2048 ≤ j by omega)
    simp [hd]
  rw [State.scanRow, s.memRead_of_le hr]
  simp only [hf]

/-- A row that passes its checks is readable, its cells are the sprite's, and all are in range. -/
theorem State.scanRow_ok_inv {s : State} {x y row : Nat} {cells : List Nat} (h : s.scanRow x y row = .ok cells) :
    s.i.toNat + row ≤ 0xFFF ∧ cells = spriteCells (s.mem.read (s.i.toNat + row)) x y row ∧ ∀ j ∈ cells, j ≤ 2047 := by
  by_cases hr : s.i.toNat + row ≤ 0xFFF
  · rw [State.scanRow, s.memRead_of_le hr] at h
    simp only at h
    split at h
    · cases h
    · rename_i hf
      have e : spriteCells (s.mem.read (s.i.toNat + row)) x y row = cells := by injection h
      refine ⟨hr, e.symm, ?_⟩
      intro j hj
      rw [List.find?_eq_none] at hf
      have hlt : ¬ 2048 ≤ j := fun hge => hf j (e ▸ hj) (decide_eq_true (show Config.fbCells ≤ j from hge))
      omega
  · rw [State.scanRow, s.memRead_of_gt (by omega)] at h
    cases h

/-- The rows' cells, one after the other. -/
def spriteRowsCells (s : State) (x y : Nat) (rows : List Nat) : List Nat :=
  rows.flatMap (fun row => spriteCells (s.mem.read (s.i.toNat + row)) x y row)

theorem State.scanRows_ok {s : State} {x y : Nat} {rows : List Nat} (hr : ∀ row ∈ rows, s.i.toNat + row ≤ 0xFFF)
    (hc : ∀ j ∈ spriteRowsCells s x y rows, j ≤ 2047) : s.scanRows x y rows = .ok (spriteRowsCells s x y rows) := by
  induction rows with
  | nil => rfl
  | cons row rows ih =>
    have h1 : s.scanRow x y row = .ok (spriteCells (s.mem.read (s.i.toNat + row)) x y row) :=
      State.scanRow_ok (hr row (by simp)) (fun j hj => hc j (by simp [spriteRowsCells]; exact .inl hj))
    have h2 := ih (fun r h => hr r (by simp [h])) (fun j hj => hc j (by
      simp only [spriteRowsCells, List.flatMap_cons, List.mem_append]; exact .inr hj))
    rw [State.scanRows, h1]
    simp only [h2]
    simp [spriteRowsCells]

theorem State.scanRows_ok_inv {s : State} {x y : Nat} {rows cells : List Nat} (h : s.scanRows x y rows = .ok cells) :
    (∀ row ∈ rows, s.i.toNat + row ≤ 0xFFF) ∧ cells = spriteRowsCells s x y rows ∧ ∀ j ∈ cells, j ≤ 2047 := by
  induction rows generalizing cells with
  | nil =>
    have e : cells = [] := by simpa [State.scanRows] using h.symm
    simp [e, spriteRowsCells]
  | cons row rows ih =>
    rw [State.scanRows] at h
    split at h
    · cases h
    · rename_i c1 hc1
      split at h
      · cases h
      · rename_i c2 hc2
        obtain ⟨a1, a2, a3⟩ := State.scanRow_ok_inv hc1
        obtain ⟨b1, b2, b3⟩ := ih hc2
        have e : c1 ++ c2 = cells := by injection h
        refine ⟨?_, ?_, ?_⟩
        · intro r hr
          rcases List.mem_cons.1 hr with rfl | hr
          · exact a1
          · exact b1 r hr
        · rw [← e, a2, b2]; simp [spriteRowsCells]
        · intro j hj
          rw [← e] at hj
          rcases List.mem_append.1 hj with hj | hj
          · exact a3 j hj
          · exact b3 j hj

/-- The first failing row decides. -/
theorem State.scanRows_error {s : State} {x y : Nat} {pre post : List Nat} {row : Nat} {e : FaultKind × Nat}
    (hr : ∀ r ∈ pre, s.i.toNat + r ≤ 0xFFF) (hc : ∀ j ∈ spriteRowsCells s x y pre, j ≤ 2047)
    (he : s.scanRow x y row = .error e) : s.scanRows x y (pre ++ row :: post) = .error e := by
  induction pre with
  | nil => simp [State.scanRows, he]
  | cons r pre ih =>
    have h1 : s.scanRow x y r = .ok (spriteCells (s.mem.read (s.i.toNat + r)) x y r) :=
      State.scanRow_ok (hr r (by simp)) (fun j hj => hc j (by simp [spriteRowsCells]; exact .inl hj))
    have h2 := ih (fun q h => hr q (by simp [h])) (fun j hj => hc j (by
      simp only [spriteRowsCells, List.flatMap_cons, List.mem_append]; exact .inr hj))
    rw [List.cons_append, State.scanRows, h1]
    simp only [h2]

theorem mem_spriteRowsCells_range (s : State) (x y n j : Nat) :
    j ∈ spriteRowsCells s x y (List.range n) ↔ s.SpriteSets x y n j := by
  simp only [spriteRowsCells, List.mem_flatMap, List.mem_range, mem_spriteCells, State.SpriteSets]
  constructor
  · rintro ⟨row, h1, col, h2, h3, h4⟩; exact ⟨row, col, h1, h2, h3, h4⟩
  · rintro ⟨row, col, h1, h2, h3, h4⟩; exact ⟨row, h1, col, h2, h3, h4⟩

/-- No two set bits of one sprite share a cell (R191, Distinct cells). -/
theorem spriteRowsCells_nodup (s : State) (x y n : Nat) : (spriteRowsCells s x y (List.range n)).Nodup := by
  rw [spriteRowsCells, List.nodup_flatMap]
  refine ⟨fun row _ => spriteCells_nodup _ _ _ _, ?_⟩
  refine List.Pairwise.imp ?_ (List.nodup_range (n := n))
  intro r r' hne j hj hj'
  obtain ⟨c, hc, -, e⟩ := mem_spriteCells.1 hj
  obtain ⟨c', hc', -, e'⟩ := mem_spriteCells.1 hj'
  omega

/-! ### The write phase -/

theorem drawCells_foldl (f : Framebuffer) (b : Bool) (cells : List Nat) (hn : cells.Nodup) (hr : ∀ j ∈ cells, j ≤ 2047) :
    (∀ k, (cells.foldl drawCell (f, b)).1.getLsbD k = (f.getLsbD k ^^ decide (k ∈ cells))) ∧
    ((cells.foldl drawCell (f, b)).2 = (b || cells.any (fun j => f.getLsbD j))) := by
  induction cells generalizing f b with
  | nil => simp
  | cons j cells ih =>
    rw [List.nodup_cons] at hn
    have hj : j ≤ 2047 := hr j (by simp)
    have ht : ∀ k, (f ^^^ BitVec.twoPow 2048 j).getLsbD k = (f.getLsbD k ^^ decide (k = j)) := by
      intro k
      rw [BitVec.getLsbD_xor, BitVec.getLsbD_twoPow]
      by_cases e : j = k
      · subst e
        have hlt : j < 2048 := by omega
        simp [hlt]
      · have e' : k ≠ j := fun h => e h.symm
        simp [e, e']
    obtain ⟨h1, h2⟩ := ih (f ^^^ BitVec.twoPow 2048 j) (b || f.getLsbD j) hn.2 (fun k hk => hr k (by simp [hk]))
    rw [List.foldl_cons]
    refine ⟨?_, ?_⟩
    · intro k
      rw [drawCell, h1, ht]
      by_cases e : k = j
      · subst e; simp [hn.1]
      · simp [e]
    · rw [drawCell, h2]
      have : cells.any (fun k => (f ^^^ BitVec.twoPow 2048 j).getLsbD k) = cells.any (fun k => f.getLsbD k) := by
        rw [Bool.eq_iff_iff, List.any_eq_true, List.any_eq_true]
        refine exists_congr fun k => and_congr_right fun hk => ?_
        have e : k ≠ j := fun h => hn.1 (h ▸ hk)
        rw [ht]; simp [e]
      rw [this]
      simp [Bool.or_assoc]

theorem drawCells_cell (f : Framebuffer) (cells : List Nat) (hn : cells.Nodup) (hr : ∀ j ∈ cells, j ≤ 2047) (k : Nat) :
    (drawCells f cells).1.getLsbD k = (f.getLsbD k ^^ decide (k ∈ cells)) :=
  (drawCells_foldl f false cells hn hr).1 k

theorem drawCells_collision (f : Framebuffer) (cells : List Nat) (hn : cells.Nodup) (hr : ∀ j ∈ cells, j ≤ 2047) :
    (drawCells f cells).2 = cells.any (fun j => f.getLsbD j) := by
  have h := (drawCells_foldl f false cells hn hr).2
  simpa [drawCells] using h

/-! ### The coordinates -/

theorem drawCoord_eq (s : State) (x : RegIdx) :
    (laterRead vfAliasMode s (s.setReg 15 0#8) x).toNat = s.drawCoord x := by
  unfold laterRead State.drawCoord
  cases vfAliasMode
  · rfl
  · simp only [State.reg_setReg]
    split <;> simp_all

/-- Dxyn once its checks are through. -/
theorem execDrw_of_ok {x y : RegIdx} {n : Nat} {s : State} {cells : List Nat}
    (h : s.scanRows (s.drawCoord x) (s.drawCoord y) (List.range n) = .ok cells) :
    execDrw x y n s = .next ((((s.setFb (drawCells s.fb cells).1).setReg 15 (flagByte (drawCells s.fb cells).2)).advance
      2#16).setOutcome (.done true)) := by
  rw [execDrw, execDrwIn, drawCoord_eq, drawCoord_eq, h]
  rfl

/-- Dxyn when a check fails. -/
theorem execDrw_of_error {x y : RegIdx} {n : Nat} {s : State} {e : FaultKind × Nat}
    (h : s.scanRows (s.drawCoord x) (s.drawCoord y) (List.range n) = .error e) :
    execDrw x y n s = .next (s.enterFault e.1 (some (encode (.drw x y n))) e.2) := by
  rw [execDrw, execDrwIn, drawCoord_eq, drawCoord_eq, h]
  rfl

end Sys2Proof.Machine
end

