-- ==== Sys2Proof/Laws/Exec.lean ====
section
/-! SUPPORT. What the meanings answer: for each one with a check, its answer on either side of the check; and what the meaning
of any instruction can answer, said once for all of them (40_step_cycle R105, R106). -/

namespace Sys2Proof.Machine

/-! ### Meanings with a check -/

theorem execRet_of_pos {s : State} (h : 0 < s.sp.val) :
    execRet s = .next ((s.pop.jump (s.stack[s.sp.val - 1] + 2#16)).setOutcome (.done false)) := by
  have h' : ¬ s.sp.val = 0 := by omega
  rw [execRet, dif_neg h', complete_eq]

theorem execRet_of_zero {s : State} (h : s.sp.val = 0) :
    execRet s = .next (s.enterFault .stackUnderflow (some (encode .ret)) 0) := by
  rw [execRet, dif_pos h, raise_eq]

theorem execCall_of_lt {nnn : Addr12} {s : State} (h : s.sp.val < 16) :
    execCall nnn s = .next (((s.push h s.pc).jump (zextAddr nnn)).setOutcome (.done false)) := by
  rw [execCall, dif_pos h, complete_eq]

theorem execCall_of_full {nnn : Addr12} {s : State} (h : ¬ s.sp.val < 16) :
    execCall nnn s = .next (s.enterFault .stackOverflow (some (encode (.call nnn))) 16) := by
  rw [execCall, dif_neg h, raise_eq]

theorem execSkp_of_key {x k : RegIdx} {s : State} (h : keyIndex (s.reg x) = some k) :
    execSkp x s = .next ((s.skipIf (s.key k)).setOutcome (.done false)) := by
  simp only [execSkp, h, complete_eq]

theorem execSkp_of_none {x : RegIdx} {s : State} (h : keyIndex (s.reg x) = none) :
    execSkp x s = .next (s.enterFault .keyOutOfRange (some (encode (.skp x))) (s.reg x).toNat) := by
  simp only [execSkp, h, raise_eq]

theorem execSknp_of_key {x k : RegIdx} {s : State} (h : keyIndex (s.reg x) = some k) :
    execSknp x s = .next ((s.skipIf (!s.key k)).setOutcome (.done false)) := by
  simp only [execSknp, h, complete_eq]

theorem execSknp_of_none {x : RegIdx} {s : State} (h : keyIndex (s.reg x) = none) :
    execSknp x s = .next (s.enterFault .keyOutOfRange (some (encode (.sknp x))) (s.reg x).toNat) := by
  simp only [execSknp, h, raise_eq]

theorem execLdVxK_of_nil {x : RegIdx} {s : State} (h : s.pressedKeys = []) :
    execLdVxK x s = .next (s.setOutcome .blocked) := by
  simp only [execLdVxK, h, block_eq]

theorem execLdVxK_of_cons {x k : RegIdx} {ks : List RegIdx} {s : State} (h : s.pressedKeys = k :: ks) :
    execLdVxK x s = .next (((s.takeDraw.setReg x (BitVec.ofNat 8 (pickKey (Config.keyChoice s.draws) k ks).val)).advance
      2#16).setOutcome (.done false)) := by
  simp only [execLdVxK, h, complete_eq]

theorem execLdB_of_none {x : RegIdx} {s : State} (h : s.rangeFault 2 = none) :
    execLdB x s = .next (((s.setMem (s.mem.writeList s.i.toNat (decimalDigits (s.reg x)))).advance 2#16).setOutcome
      (.done false)) := by
  simp only [execLdB, h, complete_eq]

theorem execLdB_of_some {x : RegIdx} {a : Nat} {s : State} (h : s.rangeFault 2 = some a) :
    execLdB x s = .next (s.enterFault .memOutOfRange (some (encode (.ldB x))) a) := by
  simp only [execLdB, h, raise_eq]

theorem execLdMemVx_of_none {x : RegIdx} {s : State} (h : s.rangeFault x.val = none) :
    execLdMemVx x s = .next ((((s.setMem (s.mem.writeList s.i.toNat (s.regBytes x))).setI
      (BitVec.ofNat 16 (s.i.toNat + x.val + 1))).advance 2#16).setOutcome (.done false)) := by
  simp only [execLdMemVx, h, complete_eq]

theorem execLdMemVx_of_some {x : RegIdx} {a : Nat} {s : State} (h : s.rangeFault x.val = some a) :
    execLdMemVx x s = .next (s.enterFault .memOutOfRange (some (encode (.ldMemVx x))) a) := by
  simp only [execLdMemVx, h, raise_eq]

theorem execLdVxMem_of_none {x : RegIdx} {s : State} (h : s.rangeFault x.val = none) :
    execLdVxMem x s = .next ((((s.loadRegs (regsUpTo x)).setI (BitVec.ofNat 16 (s.i.toNat + x.val + 1))).advance
      2#16).setOutcome (.done false)) := by
  simp only [execLdVxMem, h, complete_eq]

theorem execLdVxMem_of_some {x : RegIdx} {a : Nat} {s : State} (h : s.rangeFault x.val = some a) :
    execLdVxMem x s = .next (s.enterFault .memOutOfRange (some (encode (.ldVxMem x))) a) := by
  simp only [execLdVxMem, h, raise_eq]

/-! ### Any instruction -/

/-- The ways an instruction ends: it completes from some written state `u` (the display-changed signal true for 00E0 and Dxyn
alone, the halt not touched), it blocks (Fx0A, no key pressed), or it takes a fault from the state it began in. -/
inductive Ending (i : Instr) (s : State) : Prop where
  | completes (d : Bool) (u : State) (h : exec i s = .next (u.setOutcome (.done d))) (hh : u.halted = s.halted)
      (hd : d = true ↔ i = .cls ∨ ∃ x y n, i = .drw x y n)
  | blocks (x : RegIdx) (hi : i = .ldVxK x) (hk : s.pressedKeys = []) (h : exec i s = .next (s.setOutcome .blocked))
  | faults (k : FaultKind) (n : Nat) (h : exec i s = .next (s.enterFault k (some (encode i)) n))

theorem exec_ending (i : Instr) (s : State) : Ending i s := by
  cases i with
  | ret =>
    rcases Nat.eq_zero_or_pos s.sp.val with h | h
    · exact .faults _ _ (execRet_of_zero h)
    · exact .completes _ _ (execRet_of_pos h) rfl (by simp)
  | call nnn =>
    by_cases h : s.sp.val < 16
    · exact .completes _ _ (execCall_of_lt h) rfl (by simp)
    · exact .faults _ _ (execCall_of_full h)
  | seByte x kk => exact .completes _ _ rfl (by simp [State.skipIf_eq]) (by simp)
  | sneByte x kk => exact .completes _ _ rfl (by simp [State.skipIf_eq]) (by simp)
  | seReg x y => exact .completes _ _ rfl (by simp [State.skipIf_eq]) (by simp)
  | sneReg x y => exact .completes _ _ rfl (by simp [State.skipIf_eq]) (by simp)
  | drw x y n =>
    cases h : s.scanRows (s.drawCoord x) (s.drawCoord y) (List.range n) with
    | error e => exact .faults _ _ (execDrw_of_error h)
    | ok cells => exact .completes _ _ (execDrw_of_ok h) rfl (by simp)
  | skp x =>
    cases h : keyIndex (s.reg x) with
    | none => exact .faults _ _ (execSkp_of_none h)
    | some k => exact .completes _ _ (execSkp_of_key h) (by simp [State.skipIf_eq]) (by simp)
  | sknp x =>
    cases h : keyIndex (s.reg x) with
    | none => exact .faults _ _ (execSknp_of_none h)
    | some k => exact .completes _ _ (execSknp_of_key h) (by simp [State.skipIf_eq]) (by simp)
  | ldVxK x =>
    cases h : s.pressedKeys with
    | nil => exact .blocks x rfl h (execLdVxK_of_nil h)
    | cons k ks => exact .completes _ _ (execLdVxK_of_cons h) rfl (by simp)
  | ldB x =>
    cases h : s.rangeFault 2 with
    | some a => exact .faults _ _ (execLdB_of_some h)
    | none => exact .completes _ _ (execLdB_of_none h) rfl (by simp)
  | ldMemVx x =>
    cases h : s.rangeFault x.val with
    | some a => exact .faults _ _ (execLdMemVx_of_some h)
    | none => exact .completes _ _ (execLdMemVx_of_none h) rfl (by simp)
  | ldVxMem x =>
    cases h : s.rangeFault x.val with
    | some a => exact .faults _ _ (execLdVxMem_of_some h)
    | none => exact .completes _ _ (execLdVxMem_of_none h) rfl (by simp)
  | _ => exact .completes _ _ rfl rfl (by simp)

end Sys2Proof.Machine
end

