-- ==== Sys2Proof/Laws/PerInstr.lean ====
section
/-! SUPPORT. Statements made instruction by instruction. Family Encoding: the encoding of the instruction matches its own row of
the opcode map, and that row is one of the 34 (30_encoding R85). -/

namespace Sys2Proof.Laws.Encoding

def Statement (i : Instr) : Prop := opcodeRow i ∈ opcodeRows ∧ rowMatches (encode i) (opcodeRow i) = true

/-- Bits 15..12 alone, for the rows of formats A, XKK and XYN with mask 0xF000. -/
theorem top_mask (op : Word) : op &&& 0xF000#16 = fieldC op ++ 0#12 := by
  refine BitVec.eq_of_getLsbD_eq fun k hk => ?_
  rw [BitVec.getLsbD_and, show (fieldC op ++ 0#12).getLsbD k = _ from BitVec.getLsbD_append]
  simp only [fieldC, BitVec.getLsbD_extractLsb']
  interval_cases k <;> simp

/-- Bits 15..12 and 3..0, for the rows of format XY. -/
theorem outer_mask (op : Word) : op &&& 0xF00F#16 = fieldC op ++ 0#8 ++ fieldN op := by
  refine BitVec.eq_of_getLsbD_eq fun k hk => ?_
  rw [BitVec.getLsbD_and, show (fieldC op ++ 0#8 ++ fieldN op).getLsbD k = _ from BitVec.getLsbD_append,
    BitVec.getLsbD_append]
  simp only [fieldC, fieldN, BitVec.getLsbD_extractLsb']
  interval_cases k <;> simp

/-- Bits 15..12 and 7..0, for the rows of format X. -/
theorem low_mask (op : Word) : op &&& 0xF0FF#16 = fieldC op ++ 0#4 ++ fieldKK op := by
  refine BitVec.eq_of_getLsbD_eq fun k hk => ?_
  rw [BitVec.getLsbD_and, show (fieldC op ++ 0#4 ++ fieldKK op).getLsbD k = _ from BitVec.getLsbD_append,
    BitVec.getLsbD_append]
  simp only [fieldC, fieldKK, BitVec.getLsbD_extractLsb']
  interval_cases k <;> simp

theorem cls : Statement .cls :=
  ⟨by decide, by decide⟩

theorem ret : Statement .ret :=
  ⟨by decide, by decide⟩

theorem jp (nnn : Addr12) : Statement (.jp nnn) :=
  ⟨(by decide : (0x1000#16, 0xF000#16) ∈ opcodeRows), by simp [rowMatches, encode, opcodeRow, top_mask]⟩

theorem call (nnn : Addr12) : Statement (.call nnn) :=
  ⟨(by decide : (0x2000#16, 0xF000#16) ∈ opcodeRows), by simp [rowMatches, encode, opcodeRow, top_mask]⟩

theorem seByte (x : RegIdx) (kk : Byte) : Statement (.seByte x kk) :=
  ⟨(by decide : (0x3000#16, 0xF000#16) ∈ opcodeRows), by simp [rowMatches, encode, opcodeRow, top_mask]⟩

theorem sneByte (x : RegIdx) (kk : Byte) : Statement (.sneByte x kk) :=
  ⟨(by decide : (0x4000#16, 0xF000#16) ∈ opcodeRows), by simp [rowMatches, encode, opcodeRow, top_mask]⟩

theorem seReg (x : RegIdx) (y : RegIdx) : Statement (.seReg x y) :=
  ⟨(by decide : (0x5000#16, 0xF00F#16) ∈ opcodeRows), by simp [rowMatches, encode, opcodeRow, outer_mask]⟩

theorem sneReg (x : RegIdx) (y : RegIdx) : Statement (.sneReg x y) :=
  ⟨(by decide : (0x9000#16, 0xF00F#16) ∈ opcodeRows), by simp [rowMatches, encode, opcodeRow, outer_mask]⟩

theorem ldByte (x : RegIdx) (kk : Byte) : Statement (.ldByte x kk) :=
  ⟨(by decide : (0x6000#16, 0xF000#16) ∈ opcodeRows), by simp [rowMatches, encode, opcodeRow, top_mask]⟩

theorem addByte (x : RegIdx) (kk : Byte) : Statement (.addByte x kk) :=
  ⟨(by decide : (0x7000#16, 0xF000#16) ∈ opcodeRows), by simp [rowMatches, encode, opcodeRow, top_mask]⟩

theorem ldReg (x : RegIdx) (y : RegIdx) : Statement (.ldReg x y) :=
  ⟨(by decide : (0x8000#16, 0xF00F#16) ∈ opcodeRows), by simp [rowMatches, encode, opcodeRow, outer_mask]⟩

theorem orReg (x : RegIdx) (y : RegIdx) : Statement (.orReg x y) :=
  ⟨(by decide : (0x8001#16, 0xF00F#16) ∈ opcodeRows), by simp [rowMatches, encode, opcodeRow, outer_mask]⟩

theorem andReg (x : RegIdx) (y : RegIdx) : Statement (.andReg x y) :=
  ⟨(by decide : (0x8002#16, 0xF00F#16) ∈ opcodeRows), by simp [rowMatches, encode, opcodeRow, outer_mask]⟩

theorem xorReg (x : RegIdx) (y : RegIdx) : Statement (.xorReg x y) :=
  ⟨(by decide : (0x8003#16, 0xF00F#16) ∈ opcodeRows), by simp [rowMatches, encode, opcodeRow, outer_mask]⟩

theorem addReg (x : RegIdx) (y : RegIdx) : Statement (.addReg x y) :=
  ⟨(by decide : (0x8004#16, 0xF00F#16) ∈ opcodeRows), by simp [rowMatches, encode, opcodeRow, outer_mask]⟩

theorem subReg (x : RegIdx) (y : RegIdx) : Statement (.subReg x y) :=
  ⟨(by decide : (0x8005#16, 0xF00F#16) ∈ opcodeRows), by simp [rowMatches, encode, opcodeRow, outer_mask]⟩

theorem shr (x : RegIdx) (y : RegIdx) : Statement (.shr x y) :=
  ⟨(by decide : (0x8006#16, 0xF00F#16) ∈ opcodeRows), by simp [rowMatches, encode, opcodeRow, outer_mask]⟩

theorem subn (x : RegIdx) (y : RegIdx) : Statement (.subn x y) :=
  ⟨(by decide : (0x8007#16, 0xF00F#16) ∈ opcodeRows), by simp [rowMatches, encode, opcodeRow, outer_mask]⟩

theorem shl (x : RegIdx) (y : RegIdx) : Statement (.shl x y) :=
  ⟨(by decide : (0x800E#16, 0xF00F#16) ∈ opcodeRows), by simp [rowMatches, encode, opcodeRow, outer_mask]⟩

theorem ldI (nnn : Addr12) : Statement (.ldI nnn) :=
  ⟨(by decide : (0xA000#16, 0xF000#16) ∈ opcodeRows), by simp [rowMatches, encode, opcodeRow, top_mask]⟩

theorem jpV0 (nnn : Addr12) : Statement (.jpV0 nnn) :=
  ⟨(by decide : (0xB000#16, 0xF000#16) ∈ opcodeRows), by simp [rowMatches, encode, opcodeRow, top_mask]⟩

theorem rnd (x : RegIdx) (kk : Byte) : Statement (.rnd x kk) :=
  ⟨(by decide : (0xC000#16, 0xF000#16) ∈ opcodeRows), by simp [rowMatches, encode, opcodeRow, top_mask]⟩

theorem drw (x : RegIdx) (y : RegIdx) (n : Nat) : Statement (.drw x y n) :=
  ⟨(by decide : (0xD000#16, 0xF000#16) ∈ opcodeRows), by simp [rowMatches, encode, opcodeRow, top_mask]⟩

theorem skp (x : RegIdx) : Statement (.skp x) :=
  ⟨(by decide : (0xE09E#16, 0xF0FF#16) ∈ opcodeRows), by simp [rowMatches, encode, opcodeRow, low_mask]⟩

theorem sknp (x : RegIdx) : Statement (.sknp x) :=
  ⟨(by decide : (0xE0A1#16, 0xF0FF#16) ∈ opcodeRows), by simp [rowMatches, encode, opcodeRow, low_mask]⟩

theorem ldVxDt (x : RegIdx) : Statement (.ldVxDt x) :=
  ⟨(by decide : (0xF007#16, 0xF0FF#16) ∈ opcodeRows), by simp [rowMatches, encode, opcodeRow, low_mask]⟩

theorem ldVxK (x : RegIdx) : Statement (.ldVxK x) :=
  ⟨(by decide : (0xF00A#16, 0xF0FF#16) ∈ opcodeRows), by simp [rowMatches, encode, opcodeRow, low_mask]⟩

theorem ldDtVx (x : RegIdx) : Statement (.ldDtVx x) :=
  ⟨(by decide : (0xF015#16, 0xF0FF#16) ∈ opcodeRows), by simp [rowMatches, encode, opcodeRow, low_mask]⟩

theorem ldStVx (x : RegIdx) : Statement (.ldStVx x) :=
  ⟨(by decide : (0xF018#16, 0xF0FF#16) ∈ opcodeRows), by simp [rowMatches, encode, opcodeRow, low_mask]⟩

theorem addI (x : RegIdx) : Statement (.addI x) :=
  ⟨(by decide : (0xF01E#16, 0xF0FF#16) ∈ opcodeRows), by simp [rowMatches, encode, opcodeRow, low_mask]⟩

theorem ldF (x : RegIdx) : Statement (.ldF x) :=
  ⟨(by decide : (0xF029#16, 0xF0FF#16) ∈ opcodeRows), by simp [rowMatches, encode, opcodeRow, low_mask]⟩

theorem ldB (x : RegIdx) : Statement (.ldB x) :=
  ⟨(by decide : (0xF033#16, 0xF0FF#16) ∈ opcodeRows), by simp [rowMatches, encode, opcodeRow, low_mask]⟩

theorem ldMemVx (x : RegIdx) : Statement (.ldMemVx x) :=
  ⟨(by decide : (0xF055#16, 0xF0FF#16) ∈ opcodeRows), by simp [rowMatches, encode, opcodeRow, low_mask]⟩

theorem ldVxMem (x : RegIdx) : Statement (.ldVxMem x) :=
  ⟨(by decide : (0xF065#16, 0xF0FF#16) ∈ opcodeRows), by simp [rowMatches, encode, opcodeRow, low_mask]⟩

end Sys2Proof.Laws.Encoding
end

