-- ==== Sys2Proof/Laws/Run.lean ====
section
/-! SUPPORT. A run of key writes and steps, and what a key write leaves of the conditions that end one
(70_reset_and_hazards R255, R261). -/

namespace Sys2Proof.Machine

/-! ### One step of a run -/

/-- Every step ends in a state (40_step_cycle R106). -/
theorem step_eq_stepNext (s : State) : step s = .next s.stepNext := by
  have h : ∃ t, step s = .next t := by
    rcases s.fetchDecode_cases with ⟨_, _, e⟩ | ⟨_, _, _, e⟩ | ⟨_, _, _, _, _, e⟩ | ⟨_, i, _, _, _, e⟩
    · exact ⟨_, step_of_error e⟩
    · exact ⟨_, step_of_error e⟩
    · exact ⟨_, step_of_error e⟩
    · rw [step_of_ok e]
      rcases exec_ending i s with ⟨_, _, h, _, _⟩ | ⟨_, _, _, h⟩ | ⟨_, _, h⟩ <;> exact ⟨_, by rw [h, finishStep_next]⟩
  obtain ⟨t, h⟩ := h
  rw [State.stepNext, h]

theorem State.stepNext_of_next {s t : State} (h : step s = .next t) : s.stepNext = t := by
  rw [step_eq_stepNext] at h
  injection h

theorem State.stepNext_of_halted {s : State} {r : FaultRecord} (h : s.halted = some r) : s.stepNext = s.stayHalted r :=
  State.stepNext_of_next (step_of_error (State.fetchDecode_of_halted h))

/-! ### Runs -/

@[simp] theorem State.runKeys_nil (s : State) : s.runKeys [] = s := rfl

theorem State.runKeys_cons (s : State) (k : Vector Bool 16) (ks : List (Vector Bool 16)) :
    s.runKeys (k :: ks) = (s.setKeys k).stepNext.runKeys ks := rfl

theorem State.runKeys_append (s : State) (ks ls : List (Vector Bool 16)) :
    s.runKeys (ks ++ ls) = (s.runKeys ks).runKeys ls := by
  induction ks generalizing s with
  | nil => rfl
  | cons k ks ih => exact ih _

/-! ### What a key write leaves of the conditions -/

@[simp] theorem State.holds_setKeys (s : State) (k : Vector Bool 16) (i : Instr) : (s.setKeys k).Holds i ↔ s.Holds i :=
  Iff.rfl

@[simp] theorem State.endsBy_fault_setKeys (s : State) (k : Vector Bool 16) :
    (s.setKeys k).EndsBy .fault ↔ s.EndsBy .fault := Iff.rfl

@[simp] theorem State.endsBy_selfJump_setKeys (s : State) (k : Vector Bool 16) :
    (s.setKeys k).EndsBy .selfJump ↔ s.EndsBy .selfJump := Iff.rfl

/-- The word at pc is one instruction. -/
theorem State.holds_unique {s : State} {i j : Instr} (h : s.Holds i) (h' : s.Holds j) : i = j := by
  obtain ⟨op, h1, h2⟩ := h
  obtain ⟨op', h1', h2'⟩ := h'
  rw [h1] at h1'
  injection h1' with e
  subst e
  rw [h2] at h2'
  injection h2'

end Sys2Proof.Machine
end

