-- ==== Sys2Proof/Tests/Slice0.lean ====
section
/-! SUPPORT. The model's own tests. Expected values are the words of 30_encoding R85 and the vectors of 95_test_vectors (named by
their number there), never an answer of the model. Witnesses, named after the obligation, show states and operands that
meet its hypotheses, at the boundary where it has clauses. -/

namespace Sys2Proof.Tests

open Sys2Proof.Machine

/-! ### Helpers -/

/-- The state after one step that runs the word, placed at pc. -/
def after (s : State) (op : Word) : State :=
  match step (s.placeWord op) with
  | .next t => t
  | .fault _ => s
  | .refused _ => s

/-- Reset with some registers set. -/
def regs (l : List (RegIdx × Byte)) : State := l.foldl (fun s p => s.setReg p.1 p.2) State.reset

/-- The keymap with these keys pressed. -/
def keymap (l : List RegIdx) : Vector Bool 16 := Vector.ofFn (fun k => decide (k ∈ l))

/-- A state with these keys pressed. -/
def withKeys (s : State) (l : List RegIdx) : State := s.setKeys (keymap l)

/-- Reset with SP and one stack slot set. -/
def withStack (sp : Fin 17) (j : Fin 16) (w : Word) : State :=
  { State.reset with sp := sp, stack := State.reset.stack.set j.val w }

/-- Reset with a sprite at 0x300, I there, and coordinates in V0 and V1. -/
def sprite (rows : List Byte) (x y : Byte) : State :=
  (((State.reset.setMem (State.reset.mem.writeList 0x300 rows)).setI 0x300#16).setReg 0 x).setReg 1 y

/-- The word decodes to the instruction. -/
def decodes (op : Nat) (i : Instr) : Bool := decide (decodeTableWord 16 op = some i)

/-- The kind and info of the recorded fault, with the pc and op recorded. -/
def faultOf (s : State) : Option (FaultKind × Nat × Word × Option Word) :=
  s.halted.map (fun r => (r.kind, r.info, r.pc, r.op))

/-- The second state differs from the first in the fault record and the outcome alone. -/
def onlyHalted (s t : State) : Bool := decide ({ t with halted := s.halted, outcome := s.outcome } = s)

/-! ### WellFormed: one ill-formed term for its one check -/

theorem test_wellFormed_refuses_row_count_16 : (Instr.drw 0 0 16).wellFormed = false := by decide

theorem test_wellFormed_accepts_row_count_15 : (Instr.drw 0 0 15).wellFormed = true := by decide

/-! ### Decoding: every constructor's word, written out from R85 -/

theorem test_decode_family0 : (decodes 0x00E0 .cls && decodes 0x00EE .ret) = true := by decide

theorem test_decode_jumps : (decodes 0x1ABC (.jp 0xABC#12) && decodes 0x2DEF (.call 0xDEF#12) &&
    decodes 0xB123 (.jpV0 0x123#12) && decodes 0xA456 (.ldI 0x456#12)) = true := by decide

theorem test_decode_skips : (decodes 0x3742 (.seByte 7 0x42#8) && decodes 0x4842 (.sneByte 8 0x42#8) &&
    decodes 0x5120 (.seReg 1 2) && decodes 0x9AB0 (.sneReg 10 11)) = true := by decide

theorem test_decode_bytes : (decodes 0x6A7F (.ldByte 10 0x7F#8) && decodes 0x7F01 (.addByte 15 0x01#8) &&
    decodes 0xC30F (.rnd 3 0x0F#8)) = true := by decide

theorem test_decode_family8_low : (decodes 0x8120 (.ldReg 1 2) && decodes 0x8121 (.orReg 1 2) &&
    decodes 0x8122 (.andReg 1 2) && decodes 0x8123 (.xorReg 1 2) && decodes 0x8124 (.addReg 1 2)) = true := by decide

theorem test_decode_family8_high : (decodes 0x8125 (.subReg 1 2) && decodes 0x8126 (.shr 1 2) &&
    decodes 0x8127 (.subn 1 2) && decodes 0x812E (.shl 1 2)) = true := by decide

theorem test_decode_draw_and_keys : (decodes 0xD12F (.drw 1 2 15) && decodes 0xE59E (.skp 5) &&
    decodes 0xE5A1 (.sknp 5)) = true := by decide

theorem test_decode_familyF_timers : (decodes 0xF307 (.ldVxDt 3) && decodes 0xF30A (.ldVxK 3) &&
    decodes 0xF315 (.ldDtVx 3) && decodes 0xF318 (.ldStVx 3)) = true := by decide

theorem test_decode_familyF_memory : (decodes 0xF31E (.addI 3) && decodes 0xF329 (.ldF 3) &&
    decodes 0xF333 (.ldB 3) && decodes 0xF355 (.ldMemVx 3) && decodes 0xF365 (.ldVxMem 3)) = true := by decide

/-- 95_test_vectors 2.6: the words that raise DecodeError. -/
theorem test_decode_rejects : ([0x0000, 0x0123, 0x00E1, 0x00FF, 0x5121, 0x912F, 0x8008, 0x800D, 0x800F, 0xE000, 0xE09A,
    0xE0A2, 0xF000, 0xF00B, 0xF0FF].all (fun w => decide (decodeTableWord 16 w = none))) = true := by decide

/-! ### Control flow (95_test_vectors 2.1) -/

/-- CF1. -/
theorem test_ret : (let t := after { withStack 1 0 0x204#16 with pc := 0x30A#16 } 0x00EE#16
    t.pc = 0x206#16 ∧ t.sp = 0 ∧ t.stack[0] = 0x204#16) := by decide

/-- CF2. -/
theorem test_ret_underflow :
    faultOf (after State.reset 0x00EE#16) = some (.stackUnderflow, 0, 0x200#16, some 0x00EE#16) := by decide

/-- CF4. -/
theorem test_jp : (after State.reset 0x1ABC#16).pc = 0xABC#16 := by decide

/-- CF6, CF7. -/
theorem test_call : (let t := after { State.reset with pc := 0x204#16 } 0x220A#16
    t.pc = 0x20A#16 ∧ t.sp = 1 ∧ t.stack[0] = 0x204#16) ∧
    (let t := after { State.reset with sp := 15 } 0x2300#16
    t.sp = 16 ∧ t.stack[15] = 0x200#16) := by decide

/-- CF8. -/
theorem test_call_overflow : faultOf (after { State.reset with sp := 16 } 0x2300#16) =
    some (.stackOverflow, 16, 0x200#16, some 0x2300#16) := by decide

/-- CF9, CF10. -/
theorem test_seByte : (after (regs [(0, 0x42#8)]) 0x3042#16).pc = 0x204#16 ∧
    (after (regs [(0, 0x41#8)]) 0x3042#16).pc = 0x202#16 := by decide

/-- CF11, CF12. -/
theorem test_sneByte : (after (regs [(0, 0x42#8)]) 0x4042#16).pc = 0x202#16 ∧
    (after (regs [(0, 0x41#8)]) 0x4042#16).pc = 0x204#16 := by decide

/-- CF13, CF14. -/
theorem test_seReg : (after (regs [(1, 7#8), (2, 7#8)]) 0x5120#16).pc = 0x204#16 ∧
    (after (regs [(1, 7#8), (2, 8#8)]) 0x5120#16).pc = 0x202#16 := by decide

/-- CF15, CF16. -/
theorem test_sneReg : (after (regs [(1, 7#8), (2, 7#8)]) 0x9120#16).pc = 0x202#16 ∧
    (after (regs [(1, 7#8), (2, 8#8)]) 0x9120#16).pc = 0x204#16 := by decide

/-- CF20: not reduced to 12 bits. -/
theorem test_jpV0 : (after (regs [(0, 0xFF#8)]) 0xBFFF#16).pc = 0x10FE#16 := by decide

/-! ### Arithmetic (95_test_vectors 2.2) -/

/-- AR1. -/
theorem test_ldByte : (after State.reset 0x6A7F#16).reg 10 = 0x7F#8 := by decide

/-- AR4: wraps, VF untouched. -/
theorem test_addByte : (let t := after (regs [(0, 0xFF#8), (15, 5#8)]) 0x7001#16
    t.reg 0 = 0#8 ∧ t.reg 15 = 5#8 ∧ t.pc = 0x202#16) := by decide

/-- AR5. -/
theorem test_ldReg : (after (regs [(2, 9#8)]) 0x8120#16).reg 1 = 9#8 := by decide

/-- AR6. -/
theorem test_orReg : (let t := after (regs [(0, 0xF0#8), (1, 0x0F#8), (15, 7#8)]) 0x8011#16
    t.reg 0 = 0xFF#8 ∧ t.reg 15 = 7#8) := by decide

/-- AR7. -/
theorem test_andReg : (after (regs [(0, 0xF0#8), (1, 0x3C#8)]) 0x8012#16).reg 0 = 0x30#8 := by decide

/-- AR8. -/
theorem test_xorReg : (after (regs [(0, 0xFF#8), (1, 0x0F#8)]) 0x8013#16).reg 0 = 0xF0#8 := by decide

/-- AR9, AR10 (S3). -/
theorem test_addReg : (let t := after (regs [(0, 0xFF#8), (1, 1#8)]) 0x8014#16
    t.reg 0 = 0#8 ∧ t.reg 15 = 1#8) ∧
    (let t := after (regs [(0, 0xFE#8), (1, 1#8)]) 0x8014#16
    t.reg 0 = 0xFF#8 ∧ t.reg 15 = 0#8) := by decide

/-- AR12, AR13: VF as destination and as source. -/
theorem test_addReg_vf : (after (regs [(15, 0xFF#8), (1, 1#8)]) 0x8F14#16).reg 15 = 1#8 ∧
    (let t := after (regs [(0, 1#8), (15, 1#8)]) 0x80F4#16
    t.reg 0 = 2#8 ∧ t.reg 15 = 0#8) := by decide

/-- AR14, AR15 (S4): VF is 1 on a borrow. -/
theorem test_subReg : (let t := after (regs [(0, 1#8), (1, 2#8)]) 0x8015#16
    t.reg 0 = 0xFF#8 ∧ t.reg 15 = 1#8) ∧
    (let t := after (regs [(0, 2#8), (1, 1#8)]) 0x8015#16
    t.reg 0 = 1#8 ∧ t.reg 15 = 0#8) := by decide

/-- AR16: equal operands do not borrow. -/
theorem test_subReg_equal : (after (regs [(0, 5#8), (1, 5#8), (15, 9#8)]) 0x8015#16).reg 15 = 0#8 := by decide

/-- AR23: Vy is not read. -/
theorem test_shr : (let t := after (regs [(2, 0x81#8), (1, 0xFF#8)]) 0x8216#16
    t.reg 2 = 0x40#8 ∧ t.reg 15 = 1#8 ∧ t.reg 1 = 0xFF#8) := by decide

/-- AR24, both readings of D2. -/
theorem test_shr_vf :
    (match execShrIn .snapshot 15 (regs [(15, 3#8)]) with | .next t => t.reg 15 | _ => 0xFF#8) = 1#8 ∧
    (match execShrIn .sequential 15 (regs [(15, 3#8)]) with | .next t => t.reg 15 | _ => 0xFF#8) = 0#8 := by decide

/-- AR18, AR19. -/
theorem test_subn : (let t := after (regs [(0, 1#8), (1, 2#8)]) 0x8017#16
    t.reg 0 = 1#8 ∧ t.reg 15 = 1#8) ∧
    (let t := after (regs [(0, 2#8), (1, 1#8)]) 0x8017#16
    t.reg 0 = 0xFF#8 ∧ t.reg 15 = 0#8) := by decide

/-- AR20: equal operands give 1. -/
theorem test_subn_equal : (after (regs [(0, 5#8), (1, 5#8)]) 0x8017#16).reg 15 = 1#8 := by decide

/-- AR25. -/
theorem test_shl : (let t := after (regs [(2, 0x81#8)]) 0x820E#16
    t.reg 2 = 2#8 ∧ t.reg 15 = 1#8) := by decide

/-- AR27, both readings of D2. -/
theorem test_shl_vf :
    (match execShlIn .snapshot 15 (regs [(15, 0x81#8)]) with | .next t => t.reg 15 | _ => 0xFF#8) = 2#8 ∧
    (match execShlIn .sequential 15 (regs [(15, 0x81#8)]) with | .next t => t.reg 15 | _ => 0xFF#8) = 2#8 := by decide

/-- AR29: a mask of 0 gives 0 whatever the draw. -/
theorem test_rnd_mask_0 : (after (regs [(3, 9#8)]) 0xC300#16).reg 3 = 0#8 := BitVec.and_zero

/-- AR30: a mask of FF gives the draw itself. -/
theorem test_rnd_mask_ff : (after State.reset 0xC3FF#16).reg 3 = Config.rnd 0 := BitVec.and_allOnes

/-! ### Index register and memory (95_test_vectors 2.3) -/

/-- IM1. -/
theorem test_ldI : (after State.reset 0xA300#16).i = 0x300#16 := by decide

/-- IM3, IM4. -/
theorem test_addI : (let t := after ((regs [(1, 1#8)]).setI 0x0FFE#16) 0xF11E#16
    t.i = 0x0FFF#16 ∧ t.reg 15 = 0#8) ∧
    (let t := after ((regs [(1, 1#8)]).setI 0xFFFF#16) 0xF11E#16
    t.i = 0#16 ∧ t.reg 15 = 1#8) := by decide

/-- IM5, IM6. -/
theorem test_addI_flag : (after (State.reset.setI 0x1000#16) 0xF01E#16).reg 15 = 1#8 ∧
    (let t := after ((regs [(15, 5#8)]).setI 0x10#16) 0xFF1E#16
    t.i = 0x15#16 ∧ t.reg 15 = 0#8) := by decide

/-- IM7, IM9: five bytes a glyph, no nibble mask. -/
theorem test_ldF : (after (regs [(10, 5#8)]) 0xFA29#16).i = 0x19#16 ∧
    (after (regs [(0, 0xFF#8)]) 0xF029#16).i = 0x4FB#16 := by decide

/-- IM12 (S7 is IM10). -/
theorem test_ldB : (let t := after ((regs [(0, 0xFF#8)]).setI 0xFFD#16) 0xF033#16
    t.mem.read 0xFFD = 2#8 ∧ t.mem.read 0xFFE = 5#8 ∧ t.mem.read 0xFFF = 5#8 ∧ t.i = 0xFFD#16) := by decide

/-- IM13. -/
theorem test_ldB_fault : (let s := ((regs [(0, 1#8)]).setI 0xFFE#16).placeWord 0xF033#16
    faultOf (after s 0xF033#16) = some (.memOutOfRange, 0x1000, 0x200#16, some 0xF033#16) ∧
    onlyHalted s (after s 0xF033#16) = true) := by decide +kernel

/-- IM15: up to the last byte, and I just past it. -/
theorem test_ldMemVx : (let t := after ((regs [(15, 9#8)]).setI 0xFF0#16) 0xFF55#16
    t.mem.read 0xFFF = 9#8 ∧ t.i = 0x1000#16 ∧ t.mem.wf = true) := by decide

/-- IM16. -/
theorem test_ldMemVx_fault : faultOf (after (State.reset.setI 0xFFE#16) 0xF255#16) =
    some (.memOutOfRange, 0x1000, 0x200#16, some 0xF255#16) := by decide

/-- IM18. -/
theorem test_ldVxMem : (let t := after (sprite [1#8, 2#8, 3#8] 0#8 0#8) 0xF265#16
    t.reg 0 = 1#8 ∧ t.reg 1 = 2#8 ∧ t.reg 2 = 3#8 ∧ t.i = 0x303#16) := by decide

/-- IM20. -/
theorem test_ldVxMem_fault : faultOf (after (State.reset.setI 0xFFFF#16) 0xF065#16) =
    some (.memOutOfRange, 0xFFFF, 0x200#16, some 0xF065#16) := by decide

/-! ### Display (95_test_vectors 2.4) -/

/-- DS1. -/
theorem test_cls : (let t := after (State.reset.setFb 0x49#2048) 0x00E0#16
    t.fb = 0#2048 ∧ t.outcome = some (.done true)) := by decide +kernel

/-- DS3: one collision, I at glyph 0. -/
theorem test_drw_collision : (let t := after (State.reset.setFb 0x2#2048) 0xD011#16
    t.fb = 0xD#2048 ∧ t.reg 15 = 1#8 ∧ t.outcome = some (.done true)) := by decide +kernel

/-- DS5, DS7: past the right edge the linear index goes on; past cell 2047 it faults. -/
theorem test_drw_linear_index :
    (after (sprite [0xC0#8] 63#8 0#8) 0xD011#16).fb = 0x18000000000000000#2048 ∧
    faultOf (after (sprite [0xC0#8] 63#8 31#8) 0xD011#16) = some (.fbOutOfRange, 2048, 0x200#16, some 0xD011#16) := by
  decide +kernel

/-! ### Keypad and timers (95_test_vectors 2.5) -/

/-- KT1, KT2. -/
theorem test_skp : (after (withKeys (regs [(5, 7#8)]) [7]) 0xE59E#16).pc = 0x204#16 ∧
    (after (regs [(5, 7#8)]) 0xE59E#16).pc = 0x202#16 := by decide

/-- KT5. -/
theorem test_skp_fault : faultOf (after (regs [(0, 0x10#8)]) 0xE09E#16) =
    some (.keyOutOfRange, 16, 0x200#16, some 0xE09E#16) := by decide

/-- KT3, KT4. -/
theorem test_sknp : (after (withKeys (regs [(5, 7#8)]) [7]) 0xE5A1#16).pc = 0x202#16 ∧
    (after (regs [(5, 7#8)]) 0xE5A1#16).pc = 0x204#16 := by decide

/-- KT6: the value before the tick. -/
theorem test_ldVxDt : (let t := after (State.reset.setDt 5#8) 0xF307#16
    t.reg 3 = 5#8 ∧ t.dt = 4#8) := by decide

/-- KT8: blocked, no tick. -/
theorem test_ldVxK_blocked : (let t := after ((State.reset.setDt 3#8).setSt 3#8) 0xF30A#16
    t.outcome = some .blocked ∧ t.pc = 0x200#16 ∧ t.dt = 3#8 ∧ t.st = 3#8) := by decide

/-- KT9: the one pressed key, whatever the draw, and the tick. -/
theorem test_ldVxK : (let t := after (withKeys (State.reset.setDt 3#8) [9]) 0xF30A#16
    t.reg 3 = 9#8 ∧ t.pc = 0x202#16 ∧ t.dt = 2#8) := by
  have h : pickKey (Config.keyChoice 0) 9 [] = 9 := List.mem_singleton.1 (pickKey_mem _ _ _)
  refine ⟨?_, rfl, rfl⟩
  show BitVec.ofNat 8 (pickKey (Config.keyChoice 0) 9 []).val = 9#8
  rw [h]
  rfl

/-- KT13, KT14. -/
theorem test_ldDtVx : (after (regs [(1, 3#8)]) 0xF115#16).dt = 2#8 ∧ (after State.reset 0xF115#16).dt = 0#8 := by decide

/-- KT15, KT16. -/
theorem test_ldStVx : (after (regs [(2, 10#8)]) 0xF218#16).st = 9#8 ∧ (after (regs [(2, 1#8)]) 0xF218#16).tone = false := by
  decide

/-! ### Fetch, step, host operations (95_test_vectors 2.6, 70_reset_and_hazards) -/

/-- FE3: an odd pc. -/
theorem test_fetch_odd_pc : (after { regs [(0, 9#8)] with pc := 0x201#16 } 0x6000#16).pc = 0x203#16 ∧
    (after { regs [(0, 9#8)] with pc := 0x201#16 } 0x6000#16).reg 0 = 0#8 := by decide

/-- FE1, FE2. -/
theorem test_fetch_fault :
    faultOf (after { State.reset with pc := 0xFFF#16 } 0x6000#16) = some (.memOutOfRange, 0x1000, 0xFFF#16, none) ∧
    faultOf (after { State.reset with pc := 0x1000#16 } 0x6000#16) = some (.memOutOfRange, 0x1000, 0x1000#16, none) := by
  decide

/-- 2.6: the first step from reset with nothing placed. -/
theorem test_decode_fault : (match step State.reset with
    | .next t => faultOf t
    | .fault _ => none
    | .refused _ => none) = some (.decodeError, 0, 0x200#16, some 0x0000#16) := by decide

/-- S9 in small: a program stands at 0x200. -/
theorem test_load : (match State.reset.loadProgram [0xAA#8, 0xBB#8] with
    | .ok t => (t.mem.read 0x200, t.mem.read 0x201, t.pc)
    | .error _ => (0#8, 0#8, 0#16)) = (0xAA#8, 0xBB#8, 0x200#16) := by decide

/-- FE4: the second step of a halted core. -/
theorem test_halted_stays : (match step ((regs [(0, 9#8)]).enterFault .stackUnderflow (some 0xEE#16) 0) with
    | .next t => (faultOf t, t.reg 0, t.faultCode)
    | .fault _ => (none, 0#8, 0)
    | .refused _ => (none, 0#8, 0)) = (some (.stackUnderflow, 0, 0x200#16, some 0xEE#16), 9#8, 3) := by decide

/-! ### Witnesses: encoding -/

theorem witness_DecodeOfEncode : (Instr.drw 15 0 15).WellFormed ∧ (Instr.ldB 15).WellFormed := by decide

theorem witness_DecodedWordHasOneRow : decodeWord 0xFF65#16 = .ok (.ldVxMem 15) := rfl

theorem witness_RejectedWordsMatchNoRow :
    decodeWord 0x00E1#16 = .error .family0 ∧ rowMatches 0x00E0#16 (0x00E0#16, 0xFFFF#16) = true := ⟨rfl, by decide⟩

theorem witness_FamiliesWithoutSecondDispatch :
    fieldC 0xD00F#16 ∈ [0x1#4, 0x2#4, 0x3#4, 0x4#4, 0x6#4, 0x7#4, 0xA#4, 0xB#4, 0xC#4, 0xD#4] ∧
    (fieldC 0x5FF0#16 = 0x5#4 ∧ fieldN 0x5FF0#16 = 0x0#4) ∧ (fieldC 0x9001#16 = 0x9#4 ∧ fieldN 0x9001#16 ≠ 0x0#4) := by
  decide

/-- Both sides of each clause, at the neighbours of the defined keys. -/
theorem witness_FamiliesWithSecondDispatch :
    (fieldC 0x00EE#16 = 0x0#4 ∧ fieldC 0x00EF#16 = 0x0#4) ∧
    (fieldC 0x8007#16 = 0x8#4 ∧ (fieldN 0x8007#16).toNat ≤ 7 ∧ fieldC 0x8FF8#16 = 0x8#4 ∧ ¬ (fieldN 0x8FF8#16).toNat ≤ 7) ∧
    (fieldC 0xEFA1#16 = 0xE#4 ∧ fieldKK 0xEFA1#16 = 0xA1#8 ∧ fieldC 0xE09F#16 = 0xE#4) ∧
    (fieldC 0xFF65#16 = 0xF#4 ∧ fieldKK 0xFF65#16 = 0x65#8 ∧ fieldC 0xF066#16 = 0xF#4) := by decide

/-! ### Witnesses: reset, host operations, memory -/

/-- A state that is neither reset nor running. -/
def stopped : State := (regs [(0, 9#8)]).enterFault .stackUnderflow (some 0xEE#16) 0

theorem witness_InitializeResetsEverything : stopped.halted ≠ none ∧ stopped.reg 0 ≠ 0#8 ∧
    (stopped.initialize = stopped.initialize ∨ stopped.initialize = State.reset) := ⟨by decide, by decide, .inl rfl⟩

/-- The invariant holds of a running state that is not reset, at the highest pc, and a step is taken from it. -/
theorem witness_StepKeepsInvariant : { regs [(0, 1#8)] with pc := 0x10FE#16 }.Inv ∧
    ∃ t, step { regs [(0, 1#8)] with pc := 0x10FE#16 } = .next t :=
  ⟨⟨by decide, by decide, by decide, fun r => ⟨(fun h => nomatch h), (fun h => nomatch h)⟩, fun r h => nomatch h⟩, _, rfl⟩

/-- It holds of a halted one too. -/
theorem witness_StepKeepsInvariant_halted : stopped.Inv ∧ ∃ t, step stopped = .next t :=
  ⟨⟨by decide, by decide, by decide, fun r => ⟨fun h => by cases h; rfl, fun h => by cases h; rfl⟩,
    fun r h => by cases h; rfl⟩, _, rfl⟩

theorem witness_HostOperationsKeepInvariant : stopped.Inv := witness_StepKeepsInvariant_halted.1

theorem witness_LoadProgramWritesMemoryOnly :
    (List.replicate 3584 0xAA#8).length ≤ 3584 ∧ 3584 < (List.replicate 3585 0xAA#8).length := by
  simp only [List.length_replicate]
  decide

theorem witness_MemoryWriteThenRead : Memory.wf [(0x300, 1#8)] = true ∧ (4095 : Nat) < 4096 ∧ (0x300 : Nat) ≠ 4095 := by decide

theorem witness_CanonicalMemoryIsUnique :
    Memory.wf (Memory.write (Memory.write [] 0x301 2#8) 0x300 1#8) = true ∧
    Memory.wf (Memory.write (Memory.write [] 0x300 1#8) 0x301 2#8) = true ∧
    (∀ a, Memory.read (Memory.write (Memory.write [] 0x301 2#8) 0x300 1#8) a =
      Memory.read (Memory.write (Memory.write [] 0x300 1#8) 0x301 2#8) a) := ⟨by decide, by decide, fun _ => rfl⟩

/-! ### Witnesses: the step -/

theorem witness_HaltedStepChangesNothing : stopped.halted =
    some { kind := .stackUnderflow, pc := 0x200#16, op := some 0xEE#16, info := 0 } := rfl

theorem witness_FetchReadsTwoBytesOrFaults :
    { State.reset with pc := 0xFFE#16 }.pc.toNat ≤ 0xFFE ∧
    (0xFFE < { State.reset with pc := 0xFFF#16 }.pc.toNat ∧ { State.reset with pc := 0xFFF#16 }.halted = none) ∧
    (0xFFE < { State.reset with pc := 0x1000#16 }.pc.toNat ∧ { State.reset with pc := 0x1000#16 }.halted = none) := by decide

theorem witness_FetchedWordRunsOrTakesDecodeError :
    (State.reset.halted = none ∧ State.reset.fetchWord = .ok 0x0000#16 ∧ decodeWord 0x0000#16 = .error .family0) ∧
    ((State.reset.placeWord 0x00E0#16).halted = none ∧ (State.reset.placeWord 0x00E0#16).fetchWord = .ok 0x00E0#16 ∧
      decodeWord 0x00E0#16 = .ok .cls) := ⟨⟨rfl, rfl, rfl⟩, rfl, rfl, rfl⟩

/-- CLS at the last fetchable address. -/
def clsAtEnd : State := { State.reset with pc := 0xFFE#16 }.placeWord 0x00E0#16

theorem witness_StepRunsDecodedInstruction : clsAtEnd.halted = none ∧ clsAtEnd.pc.toNat ≤ 0xFFE ∧ Instr.cls.WellFormed ∧
    decodeBytes [clsAtEnd.mem.read clsAtEnd.pc.toNat, clsAtEnd.mem.read (clsAtEnd.pc.toNat + 1)] = .ok (.cls, []) :=
  ⟨rfl, by decide, rfl, rfl⟩

theorem witness_TimersTickAfterCompletion :
    ((State.reset.setDt 1#8).placeWord 0x00E0#16).fetchDecode = .ok .cls ∧
    ∃ t, exec .cls ((State.reset.setDt 1#8).placeWord 0x00E0#16) = .next t ∧ t.outcome = some (.done true) :=
  ⟨rfl, _, rfl, rfl⟩

/-- The clause of a step that does not tick. -/
theorem witness_TimersTickAfterCompletion_blocked :
    ((State.reset.setDt 1#8).placeWord 0xF00A#16).fetchDecode = .ok (.ldVxK 0) ∧
    ∃ t, exec (.ldVxK 0) ((State.reset.setDt 1#8).placeWord 0xF00A#16) = .next t ∧ t.outcome = some .blocked :=
  ⟨rfl, _, rfl, rfl⟩

theorem witness_FaultsArePrecise :
    (∃ t, exec .ret State.reset = .next t ∧
      t.outcome = some (.faulted { kind := .stackUnderflow, pc := 0x200#16, op := some 0x00EE#16, info := 0 })) ∧
    (∃ t, step State.reset = .next t ∧
      t.outcome = some (.faulted { kind := .decodeError, pc := 0x200#16, op := some 0x0000#16, info := 0 })) :=
  ⟨⟨_, rfl, rfl⟩, _, rfl, rfl⟩

theorem witness_DisplayChangedByClsAndDrwOnly :
    (∃ t, exec .cls State.reset = .next t ∧ t.outcome = some (.done true)) ∧
    (∃ t, exec (.drw 0 0 0) State.reset = .next t ∧ t.outcome = some (.done true)) ∧
    (∃ t, exec (.ldByte 0 1#8) State.reset = .next t ∧ t.outcome = some (.done false)) ∧
    (∃ t, exec (.ldVxK 0) State.reset = .next t ∧ t.outcome = some .blocked) ∧
    (∃ t, exec .ret State.reset = .next t ∧ ∃ r, t.outcome = some (.faulted r)) :=
  ⟨⟨_, rfl, rfl⟩, ⟨_, rfl, rfl⟩, ⟨_, rfl, rfl⟩, ⟨_, rfl, rfl⟩, ⟨_, rfl, _, rfl⟩⟩

theorem witness_WritersOfDisplayStackIndexMemoryTimersKeys :
    (∃ t, exec .cls (State.reset.setFb 1#2048) = .next t ∧ t.fb ≠ 1#2048) ∧
    (∃ t, exec (.call 0#12) State.reset = .next t ∧ t.stack ≠ State.reset.stack ∧ t.sp ≠ State.reset.sp) ∧
    (∃ t, exec (.ldI 1#12) State.reset = .next t ∧ t.i ≠ State.reset.i) ∧
    (∃ t, exec (.ldB 0) ((regs [(0, 0xFF#8)]).setI 0x300#16) = .next t ∧
      t.mem.read 0x300 ≠ ((regs [(0, 0xFF#8)]).setI 0x300#16).mem.read 0x300) ∧
    (∃ t, exec (.ldDtVx 0) (regs [(0, 1#8)]) = .next t ∧ t.dt ≠ (regs [(0, 1#8)]).dt) ∧
    (∃ t, exec (.ldStVx 0) (regs [(0, 1#8)]) = .next t ∧ t.st ≠ (regs [(0, 1#8)]).st) :=
  ⟨⟨_, rfl, by decide +kernel⟩, ⟨_, rfl, by decide, by decide⟩, ⟨_, rfl, by decide⟩, ⟨_, rfl, by decide⟩,
    ⟨_, rfl, by decide⟩, ⟨_, rfl, by decide⟩⟩

theorem witness_SoundTimerIsNotReadable :
    ∃ t, step ((State.reset.setSt 3#8).placeWord 0x00E0#16) = .next t ∧ t.st = 2#8 := ⟨_, rfl, by decide⟩

theorem witness_PlacedWordIsFetched : stopped.pc.toNat ≤ 0xFFE ∧ decodeTableWord 16 0xD12F = some (.drw 1 2 15) := by decide

/-! ### Witnesses: control transfer -/

theorem witness_ReturnResumesAfterCall : 0 < (withStack 1 0 0x204#16).sp.val ∧ 0 < (withStack 16 15 0x204#16).sp.val ∧
    State.reset.sp.val = 0 := by decide

theorem witness_CallPushesItsOwnAddress : (withStack 15 0 0#16).sp.val < 16 ∧ (withStack 16 0 0#16).sp.val = 16 := by decide

theorem witness_SkipsOnRegisters : (1#4 : BitVec 4) ≠ 0#4 := by decide

theorem witness_CallThenReturnRoundTrip : (withStack 15 0 0#16).sp.val < 16 ∧ (0 : Fin 16).val ≠ (withStack 15 0 0#16).sp.val := by
  decide

/-! ### Witnesses: arithmetic (the clauses x = F and x not F of the five that write VF) -/

theorem witness_AddSetsCarry : (14 : RegIdx) ≠ 15 ∧ (regs [(14, 0xFF#8), (0, 1#8)]).reg 14 = 0xFF#8 := by decide

theorem witness_SubtractSetsBorrow : (14 : RegIdx) ≠ 15 ∧ (regs [(14, 1#8)]).reg 14 = 1#8 := by decide

theorem witness_ShiftRightSetsBitOut : (14 : RegIdx) ≠ 15 ∧ (Fin.last 15 : RegIdx) = 15 := by decide

theorem witness_SubtractReversedSetsNoBorrow : (14 : RegIdx) ≠ 15 ∧ (regs [(14, 2#8)]).reg 14 = 2#8 := by decide

theorem witness_ShiftLeftSetsBitOut : (14 : RegIdx) ≠ 15 ∧ (Fin.last 15 : RegIdx) = 15 := by decide

/-! ### Witnesses: index register and memory -/

theorem witness_DecimalDigitsStored : (State.reset.setI 0xFFD#16).i.toNat + 2 ≤ 0xFFF ∧
    0xFFF < (State.reset.setI 0xFFE#16).i.toNat + 2 := by decide

theorem witness_RegistersStored : (State.reset.setI 0xFF0#16).i.toNat + (15 : RegIdx).val ≤ 0xFFF ∧
    0xFFF < (State.reset.setI 0xFF1#16).i.toNat + (15 : RegIdx).val := by decide

theorem witness_RegistersLoaded : (State.reset.setI 0xFFF#16).i.toNat + (0 : RegIdx).val ≤ 0xFFF ∧
    0xFFF < (State.reset.setI 0xFFFF#16).i.toNat + (0 : RegIdx).val := by decide

theorem witness_StoreThenLoadRegisters : ((regs [(0, 9#8)]).setI 0xFF0#16).i.toNat + (15 : RegIdx).val ≤ 0xFFF ∧
    (Vector.replicate 16 7#8)[0] ≠ ((regs [(0, 9#8)]).setI 0xFF0#16).reg 0 := by decide

/-! ### Witnesses: display -/

theorem witness_ClearTurnsEveryCellOff : (State.reset.setFb 1#2048).pixel 0 = true := by decide +kernel

/-- The largest n, and one row at the last cell, 2047, which is drawable. -/
theorem witness_DrawFlipsTheSpriteCells : (15 : Nat) < 16 ∧
    (∀ row, row < 1 → (sprite [0x80#8] 63#8 31#8).i.toNat + row ≤ 0xFFF) ∧
    (∀ j, (sprite [0x80#8] 63#8 31#8).SpriteSets ((sprite [0x80#8] 63#8 31#8).drawCoord 0)
      ((sprite [0x80#8] 63#8 31#8).drawCoord 1) 1 j → j ≤ 2047) := by
  refine ⟨by decide, by decide, fun j hj => ?_⟩
  have h := (mem_spriteRowsCells_range _ _ _ _ _).2 hj
  clear hj
  revert h j
  decide

/-- DS7: the second set bit of the row, column 1, is the first out of range. -/
theorem witness_DrawFaultsAtTheFirstFailingCheck_cell :
    (∀ j, (sprite [0xC0#8] 63#8 31#8).SpriteSets ((sprite [0xC0#8] 63#8 31#8).drawCoord 0)
      ((sprite [0xC0#8] 63#8 31#8).drawCoord 1) 0 j → j ≤ 2047) ∧
    (sprite [0xC0#8] 63#8 31#8).i.toNat + 0 ≤ 0xFFF ∧
    ((sprite [0xC0#8] 63#8 31#8).mem.read ((sprite [0xC0#8] 63#8 31#8).i.toNat + 0)).getLsbD (7 - 1) = true ∧
    2047 < ((sprite [0xC0#8] 63#8 31#8).drawCoord 0 + 1) + ((sprite [0xC0#8] 63#8 31#8).drawCoord 1 + 0) * 64 ∧
    (∀ c, c < 1 → ((sprite [0xC0#8] 63#8 31#8).mem.read ((sprite [0xC0#8] 63#8 31#8).i.toNat + 0)).getLsbD (7 - c) = true →
      ((sprite [0xC0#8] 63#8 31#8).drawCoord 0 + c) + ((sprite [0xC0#8] 63#8 31#8).drawCoord 1 + 0) * 64 ≤ 2047) := by
  refine ⟨fun j ⟨row, _, h, _⟩ => absurd h (Nat.not_lt_zero row), by decide, by decide, by decide, by decide⟩

/-- DS10: the second row is the first unreadable one. -/
theorem witness_DrawFaultsAtTheFirstFailingCheck_row :
    (∀ r, r < 1 → (State.reset.setI 0xFFF#16).i.toNat + r ≤ 0xFFF) ∧ 0xFFF < (State.reset.setI 0xFFF#16).i.toNat + 1 ∧
    (∀ j, (State.reset.setI 0xFFF#16).SpriteSets ((State.reset.setI 0xFFF#16).drawCoord 0)
      ((State.reset.setI 0xFFF#16).drawCoord 1) 1 j → j ≤ 2047) := by
  refine ⟨by decide, by decide, fun j hj => ?_⟩
  have h := (mem_spriteRowsCells_range _ _ _ _ _).2 hj
  clear hj
  revert h j
  decide

/-- Glyph 0's first row at (0, 0), on a blank framebuffer. -/
theorem witness_DrawTwiceRestoresTheFramebuffer : (0 : RegIdx) ≠ 15 ∧ (1 : RegIdx) ≠ 15 ∧
    (∃ t, exec (.drw 0 1 1) State.reset = .next t ∧ t.outcome = some (.done true)) ∧
    (∀ j, State.reset.pixel j = false) := by
  refine ⟨by decide, by decide, ⟨_, rfl, rfl⟩, fun j => ?_⟩
  simp [State.pixel, State.reset]

/-! ### Witnesses: keypad, timers, end of a run -/

theorem witness_SkipsOnKey : ((regs [(5, 15#8)]).reg 5).toNat = (15 : RegIdx).val ∧ 15 < ((regs [(5, 16#8)]).reg 5).toNat := by
  decide

theorem witness_WaitForKeyBlocksOrReadsAPressedKey : (∀ k, State.reset.key k = false) ∧
    (∃ k, (withKeys State.reset [2, 15]).key k = true) ∧ (withKeys State.reset [2, 15]).pressedKeys = [2, 15] ∧
    (withKeys State.reset [2, 15]).key 15 = true := by decide

/-- Fx15 at 0x200 and Fx07 after it. -/
def timerProgram : State := (State.reset.setMem (State.reset.mem.writeList 0x200 [0xF1#8, 0x15#8, 0xF2#8, 0x07#8])).setReg 1 9#8

theorem witness_DelayTimerWriteThenRead : timerProgram.fetchDecode = .ok (.ldDtVx 1) ∧
    ∃ t, step timerProgram = .next t ∧ t.fetchDecode = .ok (.ldVxDt 2) ∧ ∃ u, step t = .next u :=
  ⟨rfl, _, rfl, rfl, _, rfl⟩

theorem witness_EndsOfARunStay : stopped.EndsBy .fault ∧ (State.reset.placeWord 0x1200#16).EndsBy .selfJump ∧
    (State.reset.placeWord 0xF00A#16).EndsBy .noKey :=
  ⟨by show stopped.halted ≠ none; decide, ⟨rfl, 0x200#12, ⟨0x1200#16, rfl, rfl⟩, rfl⟩,
    ⟨rfl, ⟨0, 0xF00A#16, rfl, rfl⟩, by decide⟩⟩

/-- Fx0A at 0x200 and a self-jump after it. -/
def waitProgram : State := State.reset.setMem (State.reset.mem.writeList 0x200 [0xF3#8, 0x0A#8, 0x12#8, 0x02#8])

/-- The state with no step taken is no end of a run, whatever condition holds of it (R261). -/
theorem test_no_end_before_a_step (next : Vector Bool 16) (k : EndKind) :
    ¬ (State.reset.placeWord 0x1200#16).RunEnds [] next k :=
  fun h => h.stepped rfl

/-- 95_test_vectors Program 5, its first two steps in small: the run whose host goes on pressing no key ends at the Fx0A, and
the one whose host then presses a key goes on past it. -/
theorem witness_RunEndsOnce : waitProgram.RunEnds [keymap []] (keymap []) .noKey ∧
    waitProgram.RunEnds ([keymap []] ++ keymap [9] :: []) (keymap [9]) .selfJump := by
  refine ⟨⟨by decide, ⟨rfl, ⟨3, 0xF30A#16, rfl, rfl⟩, by decide⟩, fun n h h0 => ?_⟩,
    ⟨by decide, ⟨rfl, 0x202#12, ⟨0x1202#16, rfl, rfl⟩, rfl⟩, fun n h h0 other => ?_⟩⟩
  · exact absurd h (by simp; omega)
  · have e : n = 1 := by simp at h; omega
    subst e
    have held : ((waitProgram.runKeys [keymap []]).setKeys (keymap [9])).Holds (.ldVxK 3) := ⟨0xF30A#16, rfl, rfl⟩
    cases other with
    | fault => exact fun h => h rfl
    | selfJump => exact fun ⟨_, _, h, _⟩ => nomatch State.holds_unique held h
    | noKey =>
      have pressed : ((waitProgram.runKeys [keymap []]).setKeys (keymap [9])).pressedKeys ≠ [] := by decide
      exact fun ⟨_, _, h⟩ => pressed h

/-- Fx0A at 0x200 and a jump back to it, key 9 down. -/
def waitLoop : State := withKeys (State.reset.setMem (State.reset.mem.writeList 0x200 [0xF3#8, 0x0A#8, 0x12#8, 0x00#8])) [9]

/-- The key is released after the jump back: the step that reads the new keymap would block, so the condition holds, though
the keymap of the step before had the key down (the last remark on Program 5). -/
theorem witness_RunReachingAConditionEnds :
    (waitLoop.runKeys [keymap [9], keymap [9]]).key 9 = true ∧
    ((waitLoop.runKeys [keymap [9], keymap [9]]).setKeys (keymap [])).EndsBy .noKey :=
  ⟨rfl, rfl, ⟨3, 0xF30A#16, rfl, rfl⟩, by decide⟩

/-- And the run ends there, after two steps. -/
theorem test_run_ends_when_the_key_is_released : waitLoop.RunEnds [keymap [9], keymap [9]] (keymap []) .noKey := by
  refine ⟨by decide, witness_RunReachingAConditionEnds.2, fun n h h0 other => ?_⟩
  have e : n = 1 := by simp at h; omega
  subst e
  have held : ((waitLoop.runKeys [keymap [9]]).setKeys (keymap [9])).Holds (.jp 0x200#12) := ⟨0x1200#16, rfl, rfl⟩
  cases other with
  | fault => exact fun h => h rfl
  | selfJump =>
    rintro ⟨_, nnn, h, he⟩
    have target : Instr.jp 0x200#12 = .jp nnn := State.holds_unique held h
    injection target with target
    subst target
    exact absurd (show (0x200#16 : Word) = 0x202#16 from he) (by decide)
  | noKey => exact fun ⟨_, ⟨_, h⟩, _⟩ => nomatch State.holds_unique held h

theorem witness_HaltedRunStaysHalted : stopped.halted =
    some { kind := .stackUnderflow, pc := 0x200#16, op := some 0xEE#16, info := 0 } ∧ [keymap [3], keymap []] ≠ [] :=
  ⟨rfl, by decide⟩

/-- One writer of each clause: the named register, a register below x, VF as a flag, the halt. -/
theorem witness_WritersOfRegistersAndHalt :
    (∃ t, exec (.ldByte 3 1#8) State.reset = .next t ∧ t.reg 3 ≠ State.reset.reg 3) ∧
    (∃ t, exec (.shl 3 0) (regs [(3, 1#8)]) = .next t ∧ t.reg 3 ≠ (regs [(3, 1#8)]).reg 3) ∧
    (∃ t, exec (.ldVxDt 3) (State.reset.setDt 1#8) = .next t ∧ t.reg 3 ≠ (State.reset.setDt 1#8).reg 3) ∧
    (∃ t, exec (.ldVxMem 15) State.reset = .next t ∧ t.reg 0 ≠ State.reset.reg 0) ∧
    (∃ t, exec (.addI 0) (State.reset.setI 0x1000#16) = .next t ∧ t.reg 15 ≠ (State.reset.setI 0x1000#16).reg 15) ∧
    (∃ t, exec .ret State.reset = .next t ∧ t.halted ≠ State.reset.halted) :=
  ⟨⟨_, rfl, by decide⟩, ⟨_, rfl, by decide⟩, ⟨_, rfl, by decide⟩, ⟨_, rfl, by decide⟩, ⟨_, rfl, by decide⟩,
    ⟨_, rfl, by decide⟩⟩

end Sys2Proof.Tests
end

/-! PROOF. What the decode procedure answers family by family (30_encoding R76, R80), and the obligations about encoding. -/

namespace Sys2Proof

/-! ### Families 1-4, 6, 7, A-D: no second key -/

theorem decodeWord_ok_of_no_second_dispatch {op : Word}
    (h : fieldC op ∈ [0x1#4, 0x2#4, 0x3#4, 0x4#4, 0x6#4, 0x7#4, 0xA#4, 0xB#4, 0xC#4, 0xD#4]) :
    ∃ i, decodeWord op = .ok i := by
  simp only [List.mem_cons, List.not_mem_nil, or_false] at h
  rcases h with h | h | h | h | h | h | h | h | h | h <;> simp [decodeWord, h]

/-! ### Families 5 and 9: the bottom nibble is checked -/

theorem decodeWord_family5 {op : Word} (h : fieldC op = 0x5#4) :
    decodeWord op =
      if fieldN op = 0x0#4 then .ok (.seReg (fieldX op) (fieldY op)) else .error .families5and9 := by
  simp [decodeWord, h]

theorem decodeWord_family9 {op : Word} (h : fieldC op = 0x9#4) :
    decodeWord op =
      if fieldN op = 0x0#4 then .ok (.sneReg (fieldX op) (fieldY op)) else .error .families5and9 := by
  simp [decodeWord, h]

/-- A decoder that accepts under a check and rejects otherwise accepts exactly when the check holds. -/
theorem exists_ite_ok_iff {c : Prop} [Decidable c] (i : Instr) (e : Reject) :
    (∃ j, (if c then .ok i else .error e : Except Reject Instr) = .ok j) ↔ c := by
  by_cases hc : c <;> simp [hc]

/-- Settles O5: the ten families answer an instruction in every case; families 5 and 9 test the bottom nibble. -/
theorem familiesWithoutSecondDispatch : Obligations.FamiliesWithoutSecondDispatch := by
  refine fun op => ⟨decodeWord_ok_of_no_second_dispatch, ?_⟩
  rintro (h | h)
  · rw [decodeWord_family5 h, exists_ite_ok_iff]
  · rw [decodeWord_family9 h, exists_ite_ok_iff]

end Sys2Proof

/-! PROOF. The step cycle (40_step_cycle R102-R104, R107, R108): what the phases before the instruction and the end of a step
do, and the obligations about them. -/

namespace Sys2Proof.Machine

/-! ### The halted check (R102) -/

/-- Settles O14: the halted check comes before the fetch, and such a step records its outcome and nothing else. -/
theorem haltedStepChangesNothing : Obligations.HaltedStepChangesNothing :=
  fun s r h => ⟨s.stayHalted r, step_of_error (State.fetchDecode_of_halted h), s.stayHalted_outcome r,
    frame_setOutcome s (.faulted r)⟩

/-! ### The fetch and the decode (R103, R104) -/

/-- The composed word is the number whose high byte comes first (20_memory R55). -/
theorem composeWord_toNat (hi lo : Byte) : (composeWord hi lo).toNat = hi.toNat * 256 + lo.toNat := by
  rw [composeWord, BitVec.toNat_append, ← Nat.shiftLeft_add_eq_or_of_lt lo.isLt, Nat.shiftLeft_eq]

/-- A step that faults before any instruction runs holds the record and leaves everything else (60_exceptions R227). -/
theorem step_enterFault_precise {s : State} {k : FaultKind} {op : Option Word} {n : Nat}
    (h : step s = .next (s.enterFault k op n)) :
    ∃ t, step s = .next t ∧ Frame [] [.halted, .outcome] s t ∧
      t.halted = some { kind := k, pc := s.pc, op := op, info := n } ∧
      t.outcome = some (.faulted { kind := k, pc := s.pc, op := op, info := n }) :=
  ⟨_, h, frame_enterFault s k op n, s.enterFault_halted k op n, s.enterFault_outcome k op n⟩

/-- Settles O15: up to 0xFFE both reads succeed; above it one of them is the first address out of range. -/
theorem fetchReadsTwoBytesOrFaults : Obligations.FetchReadsTwoBytesOrFaults := by
  refine fun s => ⟨fun hle => ?_, fun hgt hrun => ?_⟩
  · exact ⟨_, s.fetchWord_of_le hle, composeWord_toNat _ _⟩
  · exact step_enterFault_precise (step_of_error (State.fetchDecode_of_fetch_error hrun (s.fetchWord_of_gt hgt)))

/-- Settles O16: the decoder's answer on the fetched word is what the step goes on with. -/
theorem fetchedWordRunsOrTakesDecodeError : Obligations.FetchedWordRunsOrTakesDecodeError := by
  refine fun s op hrun hfetch => ⟨fun i hdec => ?_, fun e hdec => ?_⟩
  · exact step_of_ok (State.fetchDecode_ok_iff.2 ⟨hrun, op, hfetch, hdec⟩)
  · exact step_enterFault_precise (step_of_error (State.fetchDecode_of_decode_error hrun hfetch hdec))

/-! ### The tick (R107) -/

/-- Settles O18: the step ends in `t.finish`, which ticks exactly when the instruction completed. -/
theorem timersTickAfterCompletion : Obligations.TimersTickAfterCompletion := by
  intro s t i hfetch hexec
  have hstep : step s = .next t.finish := by rw [step_of_ok hfetch, hexec, finishStep_next]
  refine ⟨t.finish, hstep, fun d hdone => ?_, State.finish_of_not_done⟩
  rw [State.finish_of_done hdone]
  exact ⟨tickByte_toNat t.dt, tickByte_toNat t.st, frame_tick t⟩

/-! ### The display-changed signal (R108) -/

theorem State.displayChanged_of_done {s : State} {d : Bool} (h : s.outcome = some (.done d)) : s.displayChanged = d := by
  simp [State.displayChanged, h]

theorem State.displayChanged_of_blocked {s : State} (h : s.outcome = some .blocked) : s.displayChanged = false := by
  simp [State.displayChanged, h]

theorem State.displayChanged_of_faulted {s : State} {r : FaultRecord} (h : s.outcome = some (.faulted r)) :
    s.displayChanged = false := by
  simp [State.displayChanged, h]

/-- Of the ways an instruction ends, only completing records Done, with a signal that is true for 00E0 and Dxyn alone. -/
theorem exec_done_signal_iff {i : Instr} {s t : State} {d : Bool} (hexec : exec i s = .next t)
    (hdone : t.outcome = some (.done d)) : d = true ↔ i = .cls ∨ ∃ x y n, i = .drw x y n := by
  cases exec_ending i s with
  | completes d' u h _ hsignal =>
    cases h.symm.trans hexec
    cases hdone
    exact hsignal
  | blocks x _ _ h =>
    cases h.symm.trans hexec
    cases hdone
  | faults k n h =>
    cases h.symm.trans hexec
    cases hdone

/-- Settles O21: the signal of each ending of an instruction, and what the output reads of each outcome. -/
theorem displayChangedByClsAndDrwOnly : Obligations.DisplayChangedByClsAndDrwOnly := by
  refine ⟨fun i s t d hexec hdone => ?_, ?_⟩
  · exact ⟨exec_done_signal_iff hexec hdone, State.displayChanged_of_done hdone⟩
  · rintro t (hblocked | ⟨r, hfaulted⟩)
    · exact State.displayChanged_of_blocked hblocked
    · exact State.displayChanged_of_faulted hfaulted

end Sys2Proof.Machine

/-! PROOF. The control-transfer instructions (41_control_flow R120-R127): the frames of the operations they are made of,
how an instruction is shown to complete or to fault, and the obligations about them. -/

namespace Sys2Proof.Machine

/-! ### Frames -/

/-- Frames compose, within any lists that hold what either lets change. -/
theorem Frame.compose {rs rs₁ rs₂ : List RegIdx} {ps ps₁ ps₂ : List Part} {s t u : State} (h₁ : Frame rs₁ ps₁ s t)
    (h₂ : Frame rs₂ ps₂ t u) (hr : rs₁ ++ rs₂ ⊆ rs) (hp : ps₁ ++ ps₂ ⊆ ps) : Frame rs ps s u :=
  (h₁.mono (fun _ hz => hr (List.mem_append_left _ hz)) (fun _ hq => hp (List.mem_append_left _ hq))).trans
    (h₂.mono (fun _ hz => hr (List.mem_append_right _ hz)) (fun _ hq => hp (List.mem_append_right _ hq)))

theorem frame_jump (s : State) (w : Word) : Frame [] [.pc] s (s.jump w) :=
  ⟨fun _ _ => rfl, fun p hp => by cases p <;> simp_all [Part.same]⟩

theorem frame_advance (s : State) (k : Word) : Frame [] [.pc] s (s.advance k) := frame_jump s (s.pc + k)

theorem frame_push (s : State) (h : s.sp.val < 16) (w : Word) : Frame [] [.sp, .stack] s (s.push h w) :=
  ⟨fun _ _ => rfl, fun p hp => by cases p <;> simp_all [Part.same]⟩

theorem frame_pop (s : State) : Frame [] [.sp] s s.pop :=
  ⟨fun _ _ => rfl, fun p hp => by cases p <;> simp_all [Part.same]⟩

/-! ### Completing and faulting -/

/-- An instruction that completes from a written state `u` changes what `u` changes, and records the outcome. -/
theorem completes_of_exec {i : Instr} {s u : State} {d : Bool} {rs : List RegIdx} {ps : List Part} {post : State → Prop}
    (h : exec i s = complete d u) (hframe : Frame rs ps s u) (hpost : post (u.setOutcome (.done d))) :
    Completes i s d rs ps post :=
  ⟨_, h, rfl, hframe.compose (frame_setOutcome u _) (by simp) (by simp), hpost⟩

theorem faults_of_exec {i : Instr} {s : State} {k : FaultKind} {n : Nat} (h : exec i s = raise k i n s) :
    Faults i s k n :=
  ⟨_, h, frame_enterFault s k _ n, s.enterFault_halted k _ n, s.enterFault_outcome k _ n⟩

/-! ### Jumps (R121, R127) -/

@[simp] theorem zextAddr_toNat (nnn : Addr12) : (zextAddr nnn).toNat = nnn.toNat :=
  BitVec.toNat_setWidth_of_le (by decide)

theorem completes_of_jump {i : Instr} {s : State} {w : Word} {n : Nat} (h : exec i s = complete false (s.jump w))
    (hw : w.toNat = n) : Completes i s false [] [.pc] (fun t => t.pc.toNat = n) :=
  completes_of_exec h (frame_jump s w) hw

/-- The sum of a byte and a 12-bit address fits 16 bits: it is at most 0x10FE (R127). -/
theorem byte_add_zextAddr_toNat (b : Byte) (nnn : Addr12) :
    (b.setWidth 16 + zextAddr nnn).toNat = b.toNat + nnn.toNat := by
  have hb : b.toNat < 256 := b.isLt
  have hn : nnn.toNat < 4096 := nnn.isLt
  rw [BitVec.toNat_add, zextAddr_toNat, BitVec.toNat_setWidth_of_le (by decide)]
  exact Nat.mod_eq_of_lt (by omega)

/-- Settles O26: the target is nnn itself, zero-extended. -/
theorem jumpSetsPc : Obligations.JumpSetsPc :=
  fun nnn _ => ⟨by simp [decodeWord], completes_of_jump rfl (zextAddr_toNat nnn)⟩

/-- Settles O30: the 16-bit sum is exact, since V0 + nnn never reaches 2^16. -/
theorem computedJumpAddsV0 : Obligations.ComputedJumpAddsV0 :=
  fun nnn s => ⟨by simp [decodeWord], completes_of_jump rfl (byte_add_zextAddr_toNat (s.reg 0) nnn)⟩

/-! ### Call and return (R120, R122) -/

theorem State.push_stack_getElem (s : State) (h : s.sp.val < 16) (w : Word) (j : Fin 16) :
    (s.push h w).stack[j] = if j.val = s.sp.val then w else s.stack[j] := by
  simp [Vector.getElem_set, eq_comm]

/-- Settles O25: the pop keeps the slots, and resuming adds 2 to the address in the top one. -/
theorem returnResumesAfterCall : Obligations.ReturnResumesAfterCall := by
  refine ⟨by decide, fun s => ⟨fun hpos => ?_, fun hzero => ?_⟩⟩
  · have hframe : Frame [] [.pc, .sp] s (s.pop.jump (s.stack[s.sp.val - 1] + 2#16)) :=
      (frame_pop s).compose (frame_jump _ _) (by simp) (by simp)
    exact completes_of_exec (execRet_of_pos hpos) hframe ⟨rfl, rfl⟩
  · exact faults_of_exec (execRet_of_zero hzero)

/-- Settles O27: with a free slot the call is a push of pc and a jump; at SP = 16 there is none. -/
theorem callPushesItsOwnAddress : Obligations.CallPushesItsOwnAddress := by
  refine fun nnn s => ⟨by simp [decodeWord], fun hfree => ?_, fun hfull => ?_⟩
  · have hframe : Frame [] [.pc, .sp, .stack] s ((s.push hfree s.pc).jump (zextAddr nnn)) :=
      (frame_push s hfree s.pc).compose (frame_jump _ _) (by simp) (by simp)
    exact completes_of_exec (execCall_of_lt hfree) hframe
      ⟨s.push_stack_getElem hfree s.pc, rfl, zextAddr_toNat nnn⟩
  · exact faults_of_exec (execCall_of_full (by omega))

/-! ### Skips (R123-R126) -/

/-- A skip on a test of `p` advances pc by 4 when `p` holds and by 2 when not (R128). -/
theorem completes_of_skip {i : Instr} {s : State} {b : Bool} {p : Prop} [Decidable p]
    (h : exec i s = complete false (s.skipIf b)) (hb : b = true ↔ p) :
    Completes i s false [] [.pc] (fun t => t.pc = if p then s.pc + 4#16 else s.pc + 2#16) := by
  rw [State.skipIf_eq] at h
  refine completes_of_exec h (frame_advance s _) ?_
  by_cases hp : p <;> simp [hb, hp]

/-- A skip on a test of `¬ p`, with the condition written positively. -/
theorem completes_of_skip_not {i : Instr} {s : State} {b : Bool} {p : Prop} [Decidable p]
    (h : exec i s = complete false (s.skipIf b)) (hb : b = true ↔ ¬ p) :
    Completes i s false [] [.pc] (fun t => t.pc = if p then s.pc + 2#16 else s.pc + 4#16) := by
  simpa only [ite_not] using completes_of_skip h hb

/-- Settles O28: the two skips on a byte, whose tests are each other's negation. -/
theorem skipsOnByte : Obligations.SkipsOnByte :=
  fun _ _ _ => ⟨by simp [decodeWord], by simp [decodeWord], completes_of_skip rfl beq_iff_eq,
    completes_of_skip_not rfl bne_iff_ne⟩

/-- Settles O29: the two skips on registers; families 5 and 9 reject any low nibble but 0. -/
theorem skipsOnRegisters : Obligations.SkipsOnRegisters := by
  have family5 (x y : RegIdx) (n : BitVec 4) := decodeWord_family5 (fieldC_wordXYN 0x5#4 n x y)
  have family9 (x y : RegIdx) (n : BitVec 4) := decodeWord_family9 (fieldC_wordXYN 0x9#4 n x y)
  refine fun x y s => ⟨?_, ?_, fun n hn => ⟨?_, ?_⟩, completes_of_skip rfl beq_iff_eq,
    completes_of_skip_not rfl bne_iff_ne⟩
  · simp [family5]
  · simp [family9]
  · simp [family5, hn]
  · simp [family9, hn]

end Sys2Proof.Machine

/-! PROOF. The register loads, arithmetic, logic and shifts (42_arithmetic R141-R151): what an instruction of each of the
three shapes of Machine/Arith.lean completes with, the flags and shifts as numbers, and the obligations about them. -/

namespace Sys2Proof.Machine

/-! ### Decoding family 8 (R77) -/

theorem decodeWord_family8 (x y : RegIdx) (n : BitVec 4) : decodeWord (wordXYN 0x8#4 x y n) = decode8 x y n := by
  simp [decodeWord]

/-! ### What a second effect reads (92_eei_decisions D2) -/

@[simp] theorem laterRead_snapshot (s now : State) (x : RegIdx) : laterRead .snapshot s now x = s.reg x := rfl

@[simp] theorem laterRead_sequential (s now : State) (x : RegIdx) : laterRead .sequential s now x = now.reg x := rfl

/-- The two modes differ only on a register that an earlier effect wrote. -/
theorem laterRead_setReg_ne (mode : Config.VfAliasMode) (s : State) {x z : RegIdx} (w : Byte) (h : x ≠ z) :
    laterRead mode s (s.setReg z w) x = s.reg x := by
  cases mode
  · exact laterRead_snapshot ..
  · exact s.reg_setReg_ne z x w h

/-! ### The three shapes: a register, a register and then VF, VF and then a register -/

theorem frame_setReg (s : State) (x : RegIdx) (w : Byte) : Frame [x] [] s (s.setReg x w) :=
  ⟨fun z hz => s.reg_setReg_ne x z w (by simpa using hz), fun p _ => by cases p <;> simp [Part.same]⟩

/-- Two register writes and the advance of pc, with the registers listed in either order. -/
theorem frame_setReg_setReg_advance {rs : List RegIdx} (s : State) (x z : RegIdx) (w u : Byte) (k : Word)
    (h : [x, z] ⊆ rs) : Frame rs [.pc] s (((s.setReg x w).setReg z u).advance k) :=
  ((frame_setReg s x w).compose (frame_setReg _ z u) h (List.Subset.refl [])).compose (frame_advance _ k) (by simp)
    (by simp)

section Shapes

variable {i : Instr} {s : State} {x : RegIdx}

theorem completes_of_writeReg {w : Byte} {post : State → Prop} (h : exec i s = writeReg x w s)
    (hpost : ∀ t : State, t.pc = s.pc + 2#16 → t.reg x = w → post t) : Completes i s false [x] [.pc] post :=
  completes_of_exec h ((frame_setReg s x w).compose (frame_advance _ _) (by simp) (by simp)) (hpost _ rfl (by simp))

/-- VF is written last, so it ends as the flag whatever x, and Vx keeps its new value unless it is VF (R140). -/
theorem completes_of_writeRegFlag {w flag f : Byte} {n : Nat} (h : exec i s = writeRegFlag x w flag s)
    (hw : w.toNat = n) (hflag : flag = f) :
    Completes i s false [x, 15] [.pc] (fun t => t.pc = s.pc + 2#16 ∧ (x ≠ 15 → (t.reg x).toNat = n) ∧ t.reg 15 = f) := by
  refine completes_of_exec h (frame_setReg_setReg_advance s x 15 w flag 2#16 (by simp)) ⟨rfl, fun hx => ?_, ?_⟩
  · simpa [State.reg_setReg_ne _ _ _ _ hx] using hw
  · simpa using hflag

/-- Vx is written last: with x not F, VF keeps the flag; with x = F it ends as the shifted value of what the second effect
reads. -/
theorem completes_of_shiftReg {mode : Config.VfAliasMode} {flag : Byte} {shift : Byte → Byte} {post : State → Prop}
    (h : exec i s = shiftReg mode x flag shift s)
    (hpost : ∀ t : State, t.pc = s.pc + 2#16 →
      (x ≠ 15 → t.reg x = shift (s.reg x) ∧ t.reg 15 = flag) →
      (x = 15 → t.reg 15 = shift (laterRead mode s (s.setReg 15 flag) 15)) → post t) :
    Completes i s false [x, 15] [.pc] post := by
  refine completes_of_exec h (frame_setReg_setReg_advance s 15 x flag _ 2#16 (by simp))
    (hpost _ rfl (fun hx => ⟨?_, ?_⟩) ?_)
  · simp [laterRead_setReg_ne mode s flag hx]
  · simp [State.reg_setReg_ne _ _ _ _ hx.symm]
  · rintro rfl
    simp

end Shapes

/-! ### Flags and results as numbers -/

theorem carryFlag_eq (a b : Byte) : carryFlag a b = if a.toNat + b.toNat > 255 then 1#8 else 0#8 := by
  simp [carryFlag, flagByte]

theorem borrowFlag_eq (a b : Byte) : borrowFlag a b = if a.toNat < b.toNat then 1#8 else 0#8 := by
  simp [borrowFlag, flagByte]

theorem noBorrowFlag_eq (a b : Byte) : noBorrowFlag a b = if a.toNat > b.toNat then 0#8 else 1#8 := by
  by_cases h : a.toNat > b.toNat <;> simp [noBorrowFlag, flagByte, h]

theorem byte_sub_toNat (a b : Byte) : (a - b).toNat = (256 + a.toNat - b.toNat) % 256 := by
  have hb : b.toNat < 256 := b.isLt
  rw [BitVec.toNat_sub]
  congr 1
  omega

theorem byte_shiftRight_one_toNat (a : Byte) : (a >>> 1).toNat = a.toNat / 2 := by
  rw [BitVec.toNat_ushiftRight, Nat.shiftRight_eq_div_pow]

theorem byte_shiftLeft_one_toNat (a : Byte) : (a <<< 1).toNat = a.toNat * 2 % 256 := by
  rw [BitVec.toNat_shiftLeft, Nat.shiftLeft_eq]

theorem shiftOutRight_toNat (a : Byte) : (shiftOutRight a).toNat = a.toNat % 2 := by
  rw [shiftOutRight, BitVec.toNat_and]
  exact Nat.and_one_is_mod a.toNat

/-- Masking old bit 7 changes nothing: seven places right of a byte only that bit is left. -/
theorem shiftOutLeft_toNat (a : Byte) : (shiftOutLeft a).toNat = a.toNat / 128 := by
  have ha : a.toNat < 256 := a.isLt
  have hmask : (shiftOutLeft a).toNat = a.toNat / 128 % 2 := by
    rw [shiftOutLeft, BitVec.toNat_and, BitVec.toNat_ushiftRight, Nat.shiftRight_eq_div_pow]
    exact Nat.and_one_is_mod (a.toNat / 128)
  omega

/-! ### Add and subtract (R147, R148, R150) -/

/-- Settles O34: the sum of the bytes wraps modulo 256 and the carry is what VF ends as. -/
theorem addSetsCarry : Obligations.AddSetsCarry :=
  fun x y _ => ⟨decodeWord_family8 x y 0x4#4, completes_of_writeRegFlag rfl (BitVec.toNat_add ..) (carryFlag_eq ..)⟩

/-- Settles O35: the difference wraps modulo 256 and the borrow is what VF ends as. -/
theorem subtractSetsBorrow : Obligations.SubtractSetsBorrow :=
  fun x y _ => ⟨decodeWord_family8 x y 0x5#4, completes_of_writeRegFlag rfl (byte_sub_toNat ..) (borrowFlag_eq ..)⟩

/-- Settles O37: the operands of the difference change places, and VF ends as the borrow's opposite. -/
theorem subtractReversedSetsNoBorrow : Obligations.SubtractReversedSetsNoBorrow :=
  fun x y _ => ⟨decodeWord_family8 x y 0x7#4, completes_of_writeRegFlag rfl (byte_sub_toNat ..) (noBorrowFlag_eq ..)⟩

/-! ### Shifts (R149, R151) -/

theorem exec_shr (x y : RegIdx) (s : State) :
    exec (.shr x y) s = shiftReg vfAliasMode x (shiftOutRight (s.reg x)) (fun w => w >>> 1) s := rfl

theorem exec_shl (x y : RegIdx) (s : State) :
    exec (.shl x y) s = shiftReg vfAliasMode x (shiftOutLeft (s.reg x)) (fun w => w <<< 1) s := rfl

/-- Settles O36, in either mode: sequentially the shift reads the flag, whose one bit it shifts out. -/
theorem shiftRightSetsBitOut : Obligations.ShiftRightSetsBitOut := by
  refine fun x y s => ⟨decodeWord_family8 x y 0x6#4,
    completes_of_shiftReg (exec_shr x y s) fun t hpc hne heq => ⟨hpc, ?_, ?_⟩⟩
  · intro hx
    obtain ⟨hreg, hflag⟩ := hne hx
    exact ⟨hreg ▸ byte_shiftRight_one_toNat _, hflag ▸ shiftOutRight_toNat _⟩
  · rintro rfl
    rw [heq rfl, byte_shiftRight_one_toNat]
    cases vfAliasMode
    · rfl
    · rw [laterRead_sequential, State.reg_setReg_same, shiftOutRight_toNat]
      exact Nat.div_eq_of_lt (Nat.mod_lt _ (by decide))

/-- Settles O38, in either mode: sequentially the shift doubles the flag, which is old bit 7. -/
theorem shiftLeftSetsBitOut : Obligations.ShiftLeftSetsBitOut := by
  refine fun x y s => ⟨decodeWord_family8 x y 0xE#4,
    completes_of_shiftReg (exec_shl x y s) fun t hpc hne heq => ⟨hpc, ?_, ?_⟩⟩
  · intro hx
    obtain ⟨hreg, hflag⟩ := hne hx
    exact ⟨hreg ▸ byte_shiftLeft_one_toNat _, hflag ▸ shiftOutLeft_toNat _⟩
  · rintro rfl
    have hv : (s.reg 15).toNat < 256 := (s.reg 15).isLt
    rw [heq rfl, byte_shiftLeft_one_toNat]
    cases vfAliasMode
    · rfl
    · rw [laterRead_sequential, State.reg_setReg_same, shiftOutLeft_toNat]
      exact Nat.mod_eq_of_lt (by omega)

/-! ### Load, add a byte, move and logic (R141-R146) -/

/-- Settles O32: both write Vx alone, so VF is kept unless it is Vx. -/
theorem loadAndAddByte : Obligations.LoadAndAddByte := by
  refine fun x kk s => ⟨by simp [decodeWord], by simp [decodeWord],
    completes_of_writeReg rfl fun t hpc hreg => ⟨hreg, hpc⟩,
    completes_of_writeReg rfl fun t hpc hreg => ⟨?_, hpc⟩⟩
  rw [hreg, BitVec.toNat_add]

/-- Settles O33: each writes Vx alone, and the bits of the result are those of the operands combined. -/
theorem moveAndLogic : Obligations.MoveAndLogic := by
  refine fun x y s => ⟨decodeWord_family8 x y 0x0#4, decodeWord_family8 x y 0x1#4, decodeWord_family8 x y 0x2#4,
    decodeWord_family8 x y 0x3#4,
    completes_of_writeReg rfl fun t hpc hreg => ⟨hreg, hpc⟩,
    completes_of_writeReg rfl fun t hpc hreg => ⟨hpc, fun k => ?_⟩,
    completes_of_writeReg rfl fun t hpc hreg => ⟨hpc, fun k => ?_⟩,
    completes_of_writeReg rfl fun t hpc hreg => ⟨hpc, fun k => ?_⟩⟩
  · rw [hreg, BitVec.getLsbD_or]
  · rw [hreg, BitVec.getLsbD_and]
  · rw [hreg, BitVec.getLsbD_xor]

end Sys2Proof.Machine

/-! PROOF. The index register and memory instructions (43_index_memory R170-R175): the frames of the writes they are made of,
the values those writes leave, and the obligations about them. -/

namespace Sys2Proof.Machine

/-! ### Decoding family F (R79) -/

theorem decodeWord_familyF (x : RegIdx) (kk : Byte) : decodeWord (wordXKK 0xF#4 x kk) = decodeF x kk := by
  simp [decodeWord]

/-! ### Frames -/

theorem frame_setI (s : State) (w : Word) : Frame [] [.i] s (s.setI w) :=
  ⟨fun _ _ => rfl, fun p hp => by cases p <;> simp_all [Part.same]⟩

theorem frame_setMem (s : State) (m : Memory) : Frame [] [.mem] s (s.setMem m) :=
  ⟨fun _ _ => rfl, fun p hp => by cases p <;> simp_all [Part.same]⟩

theorem frame_loadRegs (s : State) (ks : List RegIdx) : Frame ks [] s (s.loadRegs ks) :=
  ⟨fun z hz => by rw [s.reg_loadRegs, if_neg hz], fun p _ => by cases p <;> simp [Part.same]⟩

/-- An instruction that writes a state `u` and goes on to the next one changes pc beside what `u` changes. -/
theorem completes_of_advance {i : Instr} {s u : State} {rs : List RegIdx} {ps : List Part} {post : State → Prop}
    (h : exec i s = complete false (u.advance 2#16)) (hframe : Frame rs ps s u)
    (hpost : post ((u.advance 2#16).setOutcome (.done false))) : Completes i s false rs (.pc :: ps) post :=
  completes_of_exec h (hframe.compose (frame_advance u _) (by simp) (by simp)) hpost

/-! ### Loads of I (R170, R172) -/

theorem completes_of_setI {i : Instr} {s : State} {w : Word} {n : Nat}
    (h : exec i s = complete false ((s.setI w).advance 2#16)) (hw : w.toNat = n) :
    Completes i s false [] [.pc, .i] (fun t => t.i.toNat = n ∧ t.pc = s.pc + 2#16) :=
  completes_of_advance h (frame_setI s w) ⟨hw, rfl⟩

/-- The address of a glyph is exact: five times a byte is at most 0x4FB (R172). -/
theorem glyphAddress_toNat (b : Byte) : (BitVec.ofNat 16 (b.toNat * 5)).toNat = b.toNat * 5 := by
  have hb : b.toNat < 256 := b.isLt
  rw [BitVec.toNat_ofNat]
  exact Nat.mod_eq_of_lt (by omega)

/-- Settles O40: nnn is zero-extended, and the product with 5 fits I. -/
theorem indexLoads : Obligations.IndexLoads :=
  fun nnn x s => ⟨by simp [decodeWord], decodeWord_familyF x 0x29#8, completes_of_setI rfl (zextAddr_toNat nnn),
    completes_of_setI rfl (glyphAddress_toNat (s.reg x))⟩

/-! ### Add to I (R171) -/

theorem indexFlag_eq (i : Word) (b : Byte) : indexFlag i b = if i.toNat + b.toNat > 0xFFF then 1#8 else 0#8 := by
  simp [indexFlag, flagByte]

theorem word_add_byte_toNat (i : Word) (b : Byte) : (i + b.setWidth 16).toNat = (i.toNat + b.toNat) % 65536 := by
  rw [BitVec.toNat_add, BitVec.toNat_setWidth_of_le (by decide)]

/-- Settles O41: I and VF are both computed from the state at the start, so x = F is no special case. -/
theorem indexAddSetsOverflow : Obligations.IndexAddSetsOverflow := by
  refine fun x s => ⟨decodeWord_familyF x 0x1E#8, completes_of_advance rfl
    ((frame_setI s _).compose (frame_setReg _ 15 _) (by simp) (by simp)) ⟨rfl, ?_, ?_⟩⟩
  · exact word_add_byte_toNat s.i (s.reg x)
  · simpa using indexFlag_eq s.i (s.reg x)

/-! ### Decimal digits (R173) -/

/-- The three digits, each below 10 and so a byte, read back in the order hundreds, tens, ones. -/
theorem Memory.read_writeList_decimalDigits (m : Memory) (a : Nat) (w : Byte) :
    ((m.writeList a (decimalDigits w)).read a).toNat = w.toNat / 100 ∧
      ((m.writeList a (decimalDigits w)).read (a + 1)).toNat = w.toNat / 10 % 10 ∧
      ((m.writeList a (decimalDigits w)).read (a + 2)).toNat = w.toNat % 10 := by
  have hw : w.toNat < 256 := w.isLt
  have digit (k : Nat) (hk : k < 3) :
      ((m.writeList a (decimalDigits w)).read (a + k)).toNat = ((decimalDigits w)[k]'hk).toNat :=
    congrArg BitVec.toNat (m.read_writeList_inside a k (decimalDigits w) hk)
  exact ⟨(digit 0 (by decide)).trans (Nat.mod_eq_of_lt (by omega)),
    (digit 1 (by decide)).trans (Nat.mod_eq_of_lt (by omega)),
    (digit 2 (by decide)).trans (Nat.mod_eq_of_lt (by omega))⟩

/-- Settles O42: the range check passes or faults as a whole, before the three bytes are written. -/
theorem decimalDigitsStored : Obligations.DecimalDigitsStored := by
  refine fun x s => ⟨decodeWord_familyF x 0x33#8, fun hle => ?_, fun hgt => ?_⟩
  · obtain ⟨hundreds, tens, ones⟩ := s.mem.read_writeList_decimalDigits s.i.toNat (s.reg x)
    exact completes_of_advance (execLdB_of_none (s.rangeFault_of_le hle)) (frame_setMem s _)
      ⟨rfl, hundreds, tens, ones, fun a ha => s.mem.read_writeList_outside _ a _ ha⟩
  · exact faults_of_exec (execLdB_of_some (s.rangeFault_of_gt hgt))

/-! ### Register transfers (R174, R175) -/

/-- Just past a range that ends inside memory, I is exact: it is at most 0x1000. -/
theorem indexPastRange_toNat {i k : Nat} (h : i + k ≤ 0xFFF) : (BitVec.ofNat 16 (i + k + 1)).toNat = i + k + 1 := by
  rw [BitVec.toNat_ofNat]
  exact Nat.mod_eq_of_lt (by omega)

theorem Memory.read_writeList_regBytes (m : Memory) (a : Nat) (s : State) {x k : RegIdx} (h : k.val ≤ x.val) :
    (m.writeList a (s.regBytes x)).read (a + k.val) = s.reg k := by
  have hk : k.val < (s.regBytes x).length := by rw [s.regBytes_length]; omega
  rw [m.read_writeList_inside a k.val _ hk, s.regBytes_get x k h]

/-- Settles O43: the bytes written are V0..Vx in order, so the range they fill ends at I + x. -/
theorem registersStored : Obligations.RegistersStored := by
  refine fun x s => ⟨decodeWord_familyF x 0x55#8, fun hle => ?_, fun hgt => ?_⟩
  · refine completes_of_advance (execLdMemVx_of_none (s.rangeFault_of_le hle))
      ((frame_setMem s _).compose (frame_setI _ _) (by simp) (by simp))
      ⟨rfl, indexPastRange_toNat hle, fun k hk => s.mem.read_writeList_regBytes _ s hk, fun a ha => ?_⟩
    exact s.mem.read_writeList_outside _ a _ (by rwa [s.regBytes_length, ← Nat.add_assoc])
  · exact faults_of_exec (execLdMemVx_of_some (s.rangeFault_of_gt hgt))

/-- Settles O44: the registers loaded are those listed up to x, each from its own offset past I. -/
theorem registersLoaded : Obligations.RegistersLoaded := by
  refine fun x s => ⟨decodeWord_familyF x 0x65#8, fun hle => ?_, fun hgt => ?_⟩
  · have hframe := frame_loadRegs s (regsUpTo x)
    refine completes_of_advance (execLdVxMem_of_none (s.rangeFault_of_le hle))
      (hframe.compose (frame_setI _ _) (by simp) (by simp))
      ⟨rfl, indexPastRange_toNat hle, fun k hk => ?_, fun k hk => ?_⟩
    · exact (s.reg_loadRegs _ k).trans (if_pos ((mem_regsUpTo x k).2 hk))
    · exact hframe.regsKept k (by simpa using hk)
  · exact faults_of_exec (execLdVxMem_of_some (s.rangeFault_of_gt hgt))

end Sys2Proof.Machine

/-! PROOF. The display (44_display): the frame of the framebuffer write, the pixels of a cleared framebuffer, and the
obligation about 00E0 (R190). -/

namespace Sys2Proof.Machine

theorem frame_setFb (s : State) (f : Framebuffer) : Frame [] [.fb] s (s.setFb f) :=
  ⟨fun _ _ => rfl, fun p hp => by cases p <;> simp_all [Part.same]⟩

/-- A framebuffer of zeros has no cell on. -/
theorem State.pixel_of_fb_zero {s : State} (h : s.fb = 0#2048) (j : Nat) : s.pixel j = false := by
  rw [State.pixel, h, BitVec.getLsbD_zero]

/-- Settles O46: the framebuffer is written whole, with zeros, so what its cells held before does not matter. -/
theorem clearTurnsEveryCellOff : Obligations.ClearTurnsEveryCellOff := by
  refine ⟨by decide, fun s => completes_of_exec (u := (s.setFb 0#2048).advance 2#16) rfl ?_ ⟨rfl, fun j _ => ?_⟩⟩
  · exact (frame_setFb s 0#2048).compose (frame_advance _ 2#16) (by simp) (by simp)
  · exact State.pixel_of_fb_zero rfl j

end Sys2Proof.Machine

/-! PROOF. The keypad (45_input_timer): the decoding of family E (R78) and the obligation about its two skips (R200, R201). -/

namespace Sys2Proof.Machine

/-! ### Decoding family E (R78) -/

theorem decodeWord_familyE (x : RegIdx) (kk : Byte) : decodeWord (wordXKK 0xE#4 x kk) = decodeE x kk := by
  simp [decodeWord]

/-! ### Skips on a key (R200, R201) -/

/-- Settles O50: a Vx of at most 15 names a key, and the skip tests it or its negation; a larger Vx names none. -/
theorem skipsOnKey : Obligations.SkipsOnKey := by
  refine fun x s => ⟨decodeWord_familyE x 0x9E#8, decodeWord_familyE x 0xA1#8, fun k hk => ?_, fun hgt => ?_⟩
  · have hkey : keyIndex (s.reg x) = some k := keyIndex_eq_some.2 hk
    exact ⟨completes_of_skip (execSkp_of_key hkey) Iff.rfl, completes_of_skip_not (execSknp_of_key hkey) (by simp)⟩
  · have hnone : keyIndex (s.reg x) = none := keyIndex_eq_none.2 hgt
    exact ⟨faults_of_exec (execSkp_of_none hnone), faults_of_exec (execSknp_of_none hnone)⟩

end Sys2Proof.Machine

/-! PROOF. The host's operations (70_reset_and_hazards R250, R252, R253): what a load answers at and above the largest size,
what the reset values read as, and the obligations about them. -/

namespace Sys2Proof.Machine

/-! ### `load_program` (R252, R253) -/

theorem State.loadProgram_of_le (s : State) {bytes : List Byte} (h : bytes.length ≤ Config.progMax) :
    s.loadProgram bytes = .ok (s.setMem (s.mem.writeList Config.progBase bytes)) :=
  if_neg (Nat.not_lt.2 h)

theorem State.loadProgram_of_gt (s : State) {bytes : List Byte} (h : Config.progMax < bytes.length) :
    s.loadProgram bytes = .error .programTooLarge :=
  if_pos h

theorem State.applyHost_load_of_ok {s t : State} {bytes : List Byte} (h : s.loadProgram bytes = .ok t) :
    s.applyHost (.load (some bytes)) = t := by
  simp only [State.applyHost, State.loadFile, h]

theorem State.applyHost_load_of_error {s : State} {e : LoadError} {bytes : List Byte}
    (h : s.loadProgram bytes = .error e) : s.applyHost (.load (some bytes)) = s := by
  simp only [State.applyHost, State.loadFile, h]

/-- Settles O11: a load that fits is one memory write from 0x200 on; one that does not fit answers its error before it. -/
theorem loadProgramWritesMemoryOnly : Obligations.LoadProgramWritesMemoryOnly := by
  refine fun s bytes => ⟨fun hle => ?_, fun hgt => ?_⟩
  · have hload := s.loadProgram_of_le hle
    exact ⟨_, hload, State.applyHost_load_of_ok hload, frame_setMem s _,
      fun k hk => s.mem.read_writeList_inside _ k bytes hk, fun a ha => s.mem.read_writeList_outside _ a bytes ha⟩
  · have hload := s.loadProgram_of_gt hgt
    exact ⟨hload, State.applyHost_load_of_error hload⟩

/-! ### `initialize` (R250) -/

/-- Past the glyph table an unlisted address reads as 0. -/
theorem Memory.unlisted_of_ge {a : Nat} (h : 80 ≤ a) : Memory.unlisted a = 0#8 :=
  List.getD_eq_default _ _ (show glyphTable.length ≤ a from h)

/-- What `initialize()` leaves and the reset value differ at most in the count of draws, which is no element of the core. -/
theorem eq_reset_with_draws {s t : State} (h : t = s.initialize ∨ t = State.reset) :
    ∃ n, t = { State.reset with draws := n } := by
  rcases h with h | h
  · exact ⟨s.draws, h⟩
  · exact ⟨0, h⟩

/-- Settles O7: the memory lists nothing, each vector repeats its zero, and the other elements are set outright. -/
theorem initializeResetsEverything : Obligations.InitializeResetsEverything := by
  intro s t h
  obtain ⟨n, rfl⟩ := eq_reset_with_draws h
  refine ⟨fun a _ => rfl, fun a ha _ => Memory.unlisted_of_ge ha, fun x => ?_, fun j => ?_, fun k => ?_,
    rfl, rfl, rfl, rfl, fun j _ => State.pixel_of_fb_zero rfl j, rfl, rfl⟩
  · exact Vector.getElem_replicate x.isLt
  · exact Vector.getElem_replicate j.isLt
  · exact Vector.getElem_replicate k.isLt

end Sys2Proof.Machine

/-! PROOF. Encoding and decoding (30_encoding R70-R85): the decode procedure inverts the encoder, the words it rejects are
those no row of the opcode map matches, and the obligations about them. -/

namespace Sys2Proof

/-! ### Decoding an encoded instruction -/

theorem decodeWord_encode {i : Instr} (h : i.WellFormed) : decodeWord (encode i) = .ok i := by
  cases i with
  | cls => rfl
  | ret => rfl
  | drw x y n =>
    have hn : n < 16 := of_decide_eq_true h
    simp [encode, decodeWord, Nat.mod_eq_of_lt hn]
  | _ => simp [encode, decodeWord, decode8, decodeE, decodeF]

/-- Settles O2: the bytes compose to the word again, high byte first, and the decoder reads every field back from it. -/
theorem decodeOfEncode : Obligations.DecodeOfEncode := by
  intro i rest h
  rw [encodeBytes, decodeBytes_wordBytes, decodeWord_encode h]

/-! ### The second dispatch of families 0, 8, E and F (R75, R77-R79) -/

theorem decode0_ok_iff (op : Word) : (∃ i, decode0 op = .ok i) ↔ op = 0x00E0#16 ∨ op = 0x00EE#16 := by
  unfold decode0
  split
  · simp_all
  · rw [exists_ite_ok_iff]
    simp_all

theorem decode8_ok_iff (x y : RegIdx) (n : BitVec 4) : (∃ i, decode8 x y n = .ok i) ↔ n.toNat ≤ 7 ∨ n = 0xE#4 := by
  have keys : n ∈ [0x0#4, 0x1#4, 0x2#4, 0x3#4, 0x4#4, 0x5#4, 0x6#4, 0x7#4, 0xE#4] ↔ n.toNat ≤ 7 ∨ n = 0xE#4 := by
    revert n
    decide
  rw [← keys]
  unfold decode8
  split <;> simp_all

theorem decodeE_ok_iff (x : RegIdx) (kk : Byte) : (∃ i, decodeE x kk = .ok i) ↔ kk = 0x9E#8 ∨ kk = 0xA1#8 := by
  unfold decodeE
  split <;> simp_all

theorem decodeF_ok_iff (x : RegIdx) (kk : Byte) : (∃ i, decodeF x kk = .ok i) ↔
    kk ∈ [0x07#8, 0x0A#8, 0x15#8, 0x18#8, 0x1E#8, 0x29#8, 0x33#8, 0x55#8, 0x65#8] := by
  unfold decodeF
  split <;> simp_all

/-- Settles O6: each of the four families hands the word, its bottom nibble or its bottom byte to its own second dispatch. -/
theorem familiesWithSecondDispatch : Obligations.FamiliesWithSecondDispatch := by
  refine fun op => ⟨fun h => ?_, fun h => ?_, fun h => ?_, fun h => ?_⟩
  · simpa [decodeWord, h] using decode0_ok_iff op
  · simpa [decodeWord, h] using decode8_ok_iff (fieldX op) (fieldY op) (fieldN op)
  · simpa [decodeWord, h] using decodeE_ok_iff (fieldX op) (fieldKK op)
  · simpa [decodeWord, h] using decodeF_ok_iff (fieldX op) (fieldKK op)

/-! ### What a decoded word is -/

theorem encode_of_decode0 {op : Word} {i : Instr} (h : decode0 op = .ok i) : i.WellFormed ∧ encode i = op := by
  unfold decode0 at h
  split at h
  · cases h; exact ⟨rfl, by simp_all [encode]⟩
  · split at h
    · cases h; exact ⟨rfl, by simp_all [encode]⟩
    · cases h

theorem encode_of_decode8 {x y : RegIdx} {n : BitVec 4} {i : Instr} (h : decode8 x y n = .ok i) :
    i.WellFormed ∧ encode i = wordXYN 0x8#4 x y n := by
  unfold decode8 at h
  split at h <;> cases h <;> exact ⟨rfl, rfl⟩

theorem encode_of_decodeE {x : RegIdx} {kk : Byte} {i : Instr} (h : decodeE x kk = .ok i) :
    i.WellFormed ∧ encode i = wordXKK 0xE#4 x kk := by
  unfold decodeE at h
  split at h <;> cases h <;> exact ⟨rfl, rfl⟩

theorem encode_of_decodeF {x : RegIdx} {kk : Byte} {i : Instr} (h : decodeF x kk = .ok i) :
    i.WellFormed ∧ encode i = wordXKK 0xF#4 x kk := by
  unfold decodeF at h
  split at h <;> cases h <;> exact ⟨rfl, rfl⟩

/-! ### Every word is assembled from its top nibble and its other fields -/

theorem wordA_of_fieldC {op : Word} {c : BitVec 4} (h : fieldC op = c) : wordA c (fieldNNN op) = op :=
  h ▸ wordA_fields op

theorem wordXKK_of_fieldC {op : Word} {c : BitVec 4} (h : fieldC op = c) : wordXKK c (fieldX op) (fieldKK op) = op :=
  h ▸ wordXKK_fields op

theorem wordXYN_of_fieldC {op : Word} {c : BitVec 4} (h : fieldC op = c) :
    wordXYN c (fieldX op) (fieldY op) (fieldN op) = op :=
  h ▸ wordXYN_fields op

/-- The decoder drops no bit: what it answers is well-formed and encodes to the word it was given. -/
theorem encode_of_decodeWord {op : Word} {i : Instr} (h : decodeWord op = .ok i) : i.WellFormed ∧ encode i = op := by
  unfold decodeWord at h
  split at h
  case h_1 => exact encode_of_decode0 h
  case h_2 hc | h_3 hc | h_11 hc | h_12 hc => cases h; exact ⟨rfl, wordA_of_fieldC hc⟩
  case h_4 hc | h_5 hc | h_7 hc | h_8 hc | h_13 hc => cases h; exact ⟨rfl, wordXKK_of_fieldC hc⟩
  case h_6 hc | h_10 hc =>
    split at h
    · rename_i hn
      cases h
      exact ⟨rfl, by simpa [encode, hn] using wordXYN_of_fieldC hc⟩
    · cases h
  case h_9 hc => exact wordXYN_of_fieldC hc ▸ encode_of_decode8 h
  case h_14 hc =>
    cases h
    exact ⟨decide_eq_true (fieldN op).isLt, by simpa [encode] using wordXYN_of_fieldC hc⟩
  case h_15 hc => exact wordXKK_of_fieldC hc ▸ encode_of_decodeE h
  case h_16 =>
    have hc : fieldC op = 0xF#4 := by
      simp only [imp_false] at *
      bv_omega
    exact wordXKK_of_fieldC hc ▸ encode_of_decodeF h

/-! ### The rows of the opcode map (R85) -/

/-- Every instruction's row is one of the 34, and its word matches it. -/
theorem opcodeRow_mem_and_matches (i : Instr) : Laws.Encoding.Statement i := by
  cases i with
  | cls => exact Laws.Encoding.cls
  | ret => exact Laws.Encoding.ret
  | jp nnn => exact Laws.Encoding.jp nnn
  | call nnn => exact Laws.Encoding.call nnn
  | seByte x kk => exact Laws.Encoding.seByte x kk
  | sneByte x kk => exact Laws.Encoding.sneByte x kk
  | seReg x y => exact Laws.Encoding.seReg x y
  | sneReg x y => exact Laws.Encoding.sneReg x y
  | ldByte x kk => exact Laws.Encoding.ldByte x kk
  | addByte x kk => exact Laws.Encoding.addByte x kk
  | ldReg x y => exact Laws.Encoding.ldReg x y
  | orReg x y => exact Laws.Encoding.orReg x y
  | andReg x y => exact Laws.Encoding.andReg x y
  | xorReg x y => exact Laws.Encoding.xorReg x y
  | addReg x y => exact Laws.Encoding.addReg x y
  | subReg x y => exact Laws.Encoding.subReg x y
  | shr x y => exact Laws.Encoding.shr x y
  | subn x y => exact Laws.Encoding.subn x y
  | shl x y => exact Laws.Encoding.shl x y
  | ldI nnn => exact Laws.Encoding.ldI nnn
  | jpV0 nnn => exact Laws.Encoding.jpV0 nnn
  | rnd x kk => exact Laws.Encoding.rnd x kk
  | drw x y n => exact Laws.Encoding.drw x y n
  | skp x => exact Laws.Encoding.skp x
  | sknp x => exact Laws.Encoding.sknp x
  | ldVxDt x => exact Laws.Encoding.ldVxDt x
  | ldVxK x => exact Laws.Encoding.ldVxK x
  | ldDtVx x => exact Laws.Encoding.ldDtVx x
  | ldStVx x => exact Laws.Encoding.ldStVx x
  | addI x => exact Laws.Encoding.addI x
  | ldF x => exact Laws.Encoding.ldF x
  | ldB x => exact Laws.Encoding.ldB x
  | ldMemVx x => exact Laws.Encoding.ldMemVx x
  | ldVxMem x => exact Laws.Encoding.ldVxMem x

theorem rowMatches_iff {op : Word} {row : Word × Word} : rowMatches op row = true ↔ op &&& row.2 = row.1 :=
  beq_iff_eq

/-- A word that matches two rows agrees with both on the bits both fix, so the rows are one. -/
theorem row_unique {op : Word} {r q : Word × Word} (hr : r ∈ opcodeRows) (hq : q ∈ opcodeRows)
    (hmr : rowMatches op r = true) (hmq : rowMatches op q = true) : r = q := by
  by_contra hne
  refine opcodeRows_disjoint hr hq hne ?_
  rw [← rowMatches_iff.1 hmr, ← rowMatches_iff.1 hmq, BitVec.and_assoc, BitVec.and_assoc, BitVec.and_comm r.2]

/-- Settles O3: a decoded word is the encoding of what it decodes to, and so matches that instruction's row; no two rows
share a word. -/
theorem decodedWordHasOneRow : Obligations.DecodedWordHasOneRow := by
  intro op i h
  obtain ⟨hwf, rfl⟩ := encode_of_decodeWord h
  obtain ⟨hmem, hmatch⟩ := opcodeRow_mem_and_matches i
  refine ⟨hwf, rfl, hmem, fun row hrow => ⟨fun hm => row_unique hrow hmem hm hmatch, ?_⟩⟩
  rintro rfl
  exact hmatch

/-- The four kinds of row, by mask: the top nibble alone; with the bottom nibble; with the bottom byte; a whole word. -/
theorem opcodeRows_by_mask {row : Word × Word} (h : row ∈ opcodeRows) :
    (row.2 = 0xF000#16 ∧
      fieldC row.1 ∈ [0x1#4, 0x2#4, 0x3#4, 0x4#4, 0x6#4, 0x7#4, 0xA#4, 0xB#4, 0xC#4, 0xD#4]) ∨
    (row.2 = 0xF00F#16 ∧ ((fieldC row.1 = 0x5#4 ∨ fieldC row.1 = 0x9#4) ∧ fieldN row.1 = 0x0#4 ∨
      fieldC row.1 = 0x8#4 ∧ ((fieldN row.1).toNat ≤ 7 ∨ fieldN row.1 = 0xE#4))) ∨
    (row.2 = 0xF0FF#16 ∧ (fieldC row.1 = 0xE#4 ∧ (fieldKK row.1 = 0x9E#8 ∨ fieldKK row.1 = 0xA1#8) ∨
      fieldC row.1 = 0xF#4 ∧
        fieldKK row.1 ∈ [0x07#8, 0x0A#8, 0x15#8, 0x18#8, 0x1E#8, 0x29#8, 0x33#8, 0x55#8, 0x65#8])) ∨
    (row.2 = 0xFFFF#16 ∧ (row.1 = 0x00E0#16 ∨ row.1 = 0x00EE#16)) := by
  fin_cases h <;> decide

/-- A word that matches a row has the fields the row fixes, which are the keys its family's dispatch accepts. -/
theorem decodeWord_ok_of_rowMatches {op : Word} {row : Word × Word} (h : row ∈ opcodeRows)
    (hm : rowMatches op row = true) : ∃ i, decodeWord op = .ok i := by
  obtain ⟨hfirst, hfamilies59⟩ := familiesWithoutSecondDispatch op
  obtain ⟨hfamily0, hfamily8, hfamilyE, hfamilyF⟩ := familiesWithSecondDispatch op
  rw [rowMatches_iff] at hm
  rcases opcodeRows_by_mask h with ⟨hmask, hc⟩ | ⟨hmask, hkeys⟩ | ⟨hmask, hkeys⟩ | ⟨hmask, hword⟩ <;>
    rw [hmask] at hm
  · rw [← hm, fieldC_and_top] at hc
    exact hfirst hc
  · rw [← hm, fieldC_and_outer, fieldN_and_outer] at hkeys
    rcases hkeys with ⟨hc, hn⟩ | ⟨hc, hn⟩
    · exact (hfamilies59 hc).1 hn
    · exact (hfamily8 hc).2 hn
  · rw [← hm, fieldC_and_low, fieldKK_and_low] at hkeys
    rcases hkeys with ⟨hc, hkk⟩ | ⟨hc, hkk⟩
    · exact (hfamilyE hc).2 hkk
    · exact (hfamilyF hc).2 hkk
  · have hop : op = row.1 := BitVec.and_allOnes.symm.trans hm
    rw [← hop] at hword
    exact (hfamily0 (by rcases hword with rfl | rfl <;> decide)).2 hword

/-- Settles O4: a word that decodes matches its instruction's row, and a word that matches a row decodes. -/
theorem rejectedWordsMatchNoRow : Obligations.RejectedWordsMatchNoRow := by
  intro op
  constructor
  · rintro ⟨e, he⟩ row hrow
    by_contra hm
    obtain ⟨i, hi⟩ := decodeWord_ok_of_rowMatches hrow (Bool.eq_true_of_not_eq_false hm)
    cases he.symm.trans hi
  · intro hnone
    cases h : decodeWord op with
    | error e => exact ⟨e, rfl⟩
    | ok i =>
      obtain ⟨-, -, hmem, hrow⟩ := decodedWordHasOneRow op i h
      exact absurd ((hrow _ hmem).2 rfl) (by simp [hnone _ hmem])

/-- Settles O1: each word stands here as the spec's pattern writes it, and the decoder is run on it. -/
theorem specWordsDecode : Obligations.SpecWordsDecode := by
  exact ⟨rfl, rfl, rfl, rfl, rfl, rfl, rfl, rfl, rfl, rfl, rfl, rfl, rfl, rfl, rfl, rfl, rfl⟩

end Sys2Proof

/-! PROOF. Memory (20_memory R57, R61): a write and the reads after it, that a canonical memory is fixed by what it reads as,
and the obligations about them. -/

namespace Sys2Proof.Machine

/-- Settles O12: the two read laws and the law of the canonical form. -/
theorem memoryWriteThenRead : Obligations.MemoryWriteThenRead :=
  fun m a w => ⟨m.read_write_same a w, fun b hb => m.read_write_ne a b w hb, m.wf_write a w⟩

/-- A canonical memory lists exactly the cells whose address reads as their byte and would not do so unlisted. -/
theorem Memory.mem_iff_read {m : Memory} (h : m.wf = true) (c : Host.Cell) :
    c ∈ m ↔ m.read c.1 = c.2 ∧ c.2 ≠ Memory.unlisted c.1 := by
  constructor
  · intro hc
    exact ⟨Memory.read_of_mem h hc, ((Memory.wf_iff.1 h).2 c hc).2⟩
  · rintro ⟨hread, hne⟩
    have hlisted := m.mem_of_read c.1 (hread ▸ hne)
    rwa [hread] at hlisted

/-- Settles O13: equal reads give the same cells, and the rising addresses leave one order for them. -/
theorem canonicalMemoryIsUnique : Obligations.CanonicalMemoryIsUnique := by
  intro m m' h h' hread
  have hcells (c : Host.Cell) : c ∈ m ↔ c ∈ m' := by
    rw [Memory.mem_iff_read h, Memory.mem_iff_read h', hread]
  have hnodup {l : Memory} (hl : l.wf = true) : l.Nodup :=
    (Memory.wf_iff.1 hl).1.imp fun hlt e => absurd (e ▸ hlt) (Nat.lt_irrefl _)
  have hperm : m.Perm m' := (List.perm_ext_iff_of_nodup (hnodup h) (hnodup h')).2 hcells
  exact hperm.eq_of_pairwise (fun c d _ _ hcd hdc => absurd hcd (Nat.lt_asymm hdc)) (Memory.wf_iff.1 h).1
    (Memory.wf_iff.1 h').1

end Sys2Proof.Machine

/-! PROOF. The invariant (`State.Inv`): it holds at reset, and every step and every operation of the host keeps it. -/

namespace Sys2Proof.Machine

/-! ### Reset and the host's operations (R35, R65, R250, R252) -/

theorem inv_reset_with_draws (n : Nat) : ({ State.reset with draws := n } : State).Inv where
  memory := Memory.wf_nil
  pcBound := show (0x200#16).toNat ≤ 0x10FE by decide
  slotBound j := by
    have h : State.reset.stack[j] = 0#16 := Vector.getElem_replicate j.isLt
    exact (congrArg BitVec.toNat h).trans_le (by decide)
  faultOutcome := by simp [State.reset]
  faultPc := by simp [State.reset]

/-- Settles O8: the reset values, whatever the count of draws. -/
theorem resetMeetsInvariant : Obligations.ResetMeetsInvariant := inv_reset_with_draws 0

/-- A state that differs from one meeting the invariant in memory alone, which is canonical still, meets it. -/
theorem State.Inv.setMem {s : State} (h : s.Inv) {m : Memory} (hm : m.wf = true) : (s.setMem m).Inv :=
  { h with memory := hm }

theorem State.Inv.setKeys {s : State} (h : s.Inv) (k : Vector Bool 16) : (s.setKeys k).Inv :=
  { h with }

theorem State.Inv.applyHost_load {s : State} (h : s.Inv) (bytes : List Byte) :
    (s.applyHost (.load (some bytes))).Inv := by
  rcases Nat.lt_or_ge Config.progMax bytes.length with hgt | hle
  · rwa [State.applyHost_load_of_error (s.loadProgram_of_gt hgt)]
  · rw [State.applyHost_load_of_ok (s.loadProgram_of_le hle)]
    have hroom : Config.progBase + bytes.length ≤ Config.memSize := Nat.add_le_add_left hle Config.progBase
    exact h.setMem (Memory.wf_writeList _ _ bytes h.memory hroom)

/-- Settles O10: `init` gives the reset values, a load that fits writes inside memory, a failed one and a key write touch no
part the invariant speaks of. -/
theorem hostOperationsKeepInvariant : Obligations.HostOperationsKeepInvariant := by
  intro s o h
  match o with
  | .init => exact inv_reset_with_draws s.draws
  | .load none => exact h
  | .load (some bytes) => exact h.applyHost_load bytes
  | .keys k => exact h.setKeys k

/-! ### The bounds an instruction keeps -/

/-- The clauses of the invariant that do not speak of the halt. -/
structure State.Bounded (s : State) : Prop where
  memory : s.mem.wf = true
  pcBound : s.pc.toNat ≤ 0x10FE
  slotBound : ∀ j : Fin 16, s.stack[j].toNat ≤ 0xFFE

theorem State.Inv.bounded {s : State} (h : s.Inv) : s.Bounded := ⟨h.memory, h.pcBound, h.slotBound⟩

/-- The invariant, from its bounds, where the core runs and the step did not fault. -/
theorem State.Bounded.inv_of_running {s : State} (h : s.Bounded) (hrun : s.halted = none)
    (ho : ∀ r, s.outcome ≠ some (.faulted r)) : s.Inv :=
  { h with
    faultOutcome := fun r => by simp [hrun, ho r]
    faultPc := fun r hr => by simp [hrun] at hr }

/-- The invariant, from its bounds, where the record of the halt is that of the outcome. -/
theorem State.Bounded.inv_of_faulted {s : State} (h : s.Bounded) {r : FaultRecord} (hhalt : s.halted = some r)
    (ho : s.outcome = some (.faulted r)) (hpc : r.pc = s.pc) : s.Inv :=
  { h with
    faultOutcome := fun q => by simp [hhalt, ho]
    faultPc := fun q hq => by
      rw [hhalt] at hq
      cases hq
      exact hpc }

theorem State.Bounded.enterFault_inv {s : State} (h : s.Bounded) (k : FaultKind) (op : Option Word) (n : Nat) :
    (s.enterFault k op n).Inv :=
  State.Bounded.inv_of_faulted (r := ⟨k, s.pc, op, n⟩) { h with } rfl rfl rfl

/-- From a fetchable pc, advancing by 2 or 4 stays within the bound (R112). -/
theorem advance_toNat_le {pc k : Word} (h : pc.toNat ≤ 0xFFE) (hk : k.toNat ≤ 4) : (pc + k).toNat ≤ 0x10FE := by
  rw [BitVec.toNat_add]
  omega

/-- An instruction that writes neither memory nor the stack, going on to the next one or over it. -/
theorem State.Bounded.of_advance {s u : State} (h : s.Bounded) (hfetch : s.pc.toNat ≤ 0xFFE) {k : Word}
    (hk : k.toNat ≤ 4) (hmem : u.mem = s.mem) (hstack : u.stack = s.stack) (hpc : u.pc = s.pc + k) : u.Bounded where
  memory := hmem ▸ h.memory
  pcBound := hpc ▸ advance_toNat_le hfetch hk
  slotBound j := by
    rw [hstack]
    exact h.slotBound j

theorem State.Bounded.skipIf {s : State} (h : s.Bounded) (hfetch : s.pc.toNat ≤ 0xFFE) (b : Bool) :
    (s.skipIf b).Bounded := by
  rw [State.skipIf_eq]
  exact h.of_advance hfetch (by cases b <;> decide) rfl rfl rfl

/-- A write of bytes that ends inside memory, before pc advances. -/
theorem State.Bounded.write_advance {s u : State} (h : s.Bounded) (hfetch : s.pc.toNat ≤ 0xFFE) {a : Nat}
    {ws : List Byte} (ha : a + ws.length ≤ 0x1000) (hmem : u.mem = s.mem.writeList a ws) (hstack : u.stack = s.stack)
    (hpc : u.pc = s.pc + 2#16) : u.Bounded where
  memory := hmem ▸ Memory.wf_writeList s.mem a ws h.memory ha
  pcBound := hpc ▸ advance_toNat_le hfetch (by decide)
  slotBound j := by
    rw [hstack]
    exact h.slotBound j

theorem zextAddr_toNat_le (nnn : Addr12) : (zextAddr nnn).toNat ≤ 0x10FE := by
  have hn : nnn.toNat < 4096 := nnn.isLt
  rw [zextAddr_toNat]
  omega

theorem byte_add_zextAddr_toNat_le (b : Byte) (nnn : Addr12) : (b.setWidth 16 + zextAddr nnn).toNat ≤ 0x10FE := by
  have hb : b.toNat < 256 := b.isLt
  have hn : nnn.toNat < 4096 := nnn.isLt
  rw [byte_add_zextAddr_toNat]
  omega

theorem State.Bounded.enterFault {s : State} (h : s.Bounded) (k : FaultKind) (op : Option Word) (n : Nat) :
    (s.enterFault k op n).Bounded :=
  { h with }

/-- A return resumes two past a slot, and every slot is an address an instruction can be fetched from (R120). -/
theorem execRet_keeps_bounded {s t : State} (h : s.Bounded) (hexec : execRet s = .next t) : t.Bounded := by
  rcases Nat.eq_zero_or_pos s.sp.val with hzero | hpos
  · cases (execRet_of_zero hzero).symm.trans hexec
    exact h.enterFault ..
  · cases (execRet_of_pos hpos).symm.trans hexec
    have hslot : (s.stack[s.sp.val - 1] + 2#16).toNat ≤ 0x10FE :=
      advance_toNat_le (h.slotBound ⟨s.sp.val - 1, by omega⟩) (by decide)
    exact { h with pcBound := hslot }

/-- The slot a call writes holds the pc the call was fetched from (R122). -/
theorem execCall_keeps_bounded {nnn : Addr12} {s t : State} (h : s.Bounded) (hfetch : s.pc.toNat ≤ 0xFFE)
    (hexec : execCall nnn s = .next t) : t.Bounded := by
  by_cases hfree : s.sp.val < 16
  · cases (execCall_of_lt hfree).symm.trans hexec
    refine { h with pcBound := zextAddr_toNat_le nnn, slotBound := fun j => ?_ }
    have hslot := s.push_stack_getElem hfree s.pc j
    exact hslot ▸ (by split; exacts [hfetch, h.slotBound j])
  · cases (execCall_of_full hfree).symm.trans hexec
    exact h.enterFault ..

theorem State.rangeFault_none_iff (s : State) (k : Nat) : s.rangeFault k = none ↔ s.i.toNat + k ≤ 0xFFF := by
  constructor
  · intro h
    by_contra hgt
    simp [s.rangeFault_of_gt (Nat.lt_of_not_le hgt)] at h
  · exact s.rangeFault_of_le

theorem bounded_of_next {i : Instr} {s t u : State} (hexec : exec i s = .next t) (h : exec i s = .next u)
    (hu : u.Bounded) : t.Bounded := by
  cases h.symm.trans hexec
  exact hu

/-- An instruction that was fetched leaves bounds within bounds. -/
theorem exec_keeps_bounded (i : Instr) {s t : State} (h : s.Bounded) (hfetch : s.pc.toNat ≤ 0xFFE)
    (hexec : exec i s = .next t) : t.Bounded := by
  have hskip (b : Bool) : ((s.skipIf b).setOutcome (.done false)).Bounded := { h.skipIf hfetch b with }
  cases i with
  | ret => exact execRet_keeps_bounded h hexec
  | jp nnn =>
    cases hexec
    exact { h with pcBound := zextAddr_toNat_le nnn }
  | call nnn => exact execCall_keeps_bounded h hfetch hexec
  | jpV0 nnn =>
    cases hexec
    exact { h with pcBound := byte_add_zextAddr_toNat_le (s.reg 0) nnn }
  | seByte x kk | sneByte x kk | seReg x y | sneReg x y => exact bounded_of_next hexec rfl (hskip _)
  | drw x y n =>
    cases hscan : s.scanRows (s.drawCoord x) (s.drawCoord y) (List.range n) with
    | error e => exact bounded_of_next hexec (execDrw_of_error hscan) (h.enterFault ..)
    | ok cells => exact bounded_of_next hexec (execDrw_of_ok hscan) (h.of_advance hfetch (by decide) rfl rfl rfl)
  | skp x =>
    cases hkey : keyIndex (s.reg x) with
    | none => exact bounded_of_next hexec (execSkp_of_none hkey) (h.enterFault ..)
    | some k => exact bounded_of_next hexec (execSkp_of_key hkey) (hskip _)
  | sknp x =>
    cases hkey : keyIndex (s.reg x) with
    | none => exact bounded_of_next hexec (execSknp_of_none hkey) (h.enterFault ..)
    | some k => exact bounded_of_next hexec (execSknp_of_key hkey) (hskip _)
  | ldVxK x =>
    cases hpressed : s.pressedKeys with
    | nil => exact bounded_of_next hexec (execLdVxK_of_nil hpressed) { h with }
    | cons k ks => exact bounded_of_next hexec (execLdVxK_of_cons hpressed) (h.of_advance hfetch (by decide) rfl rfl rfl)
  | ldB x =>
    cases hrange : s.rangeFault 2 with
    | some a => exact bounded_of_next hexec (execLdB_of_some hrange) (h.enterFault ..)
    | none =>
      have hle := (s.rangeFault_none_iff 2).1 hrange
      exact bounded_of_next hexec (execLdB_of_none hrange)
        (h.write_advance hfetch (by rw [decimalDigits_length]; omega) rfl rfl rfl)
  | ldMemVx x =>
    cases hrange : s.rangeFault x.val with
    | some a => exact bounded_of_next hexec (execLdMemVx_of_some hrange) (h.enterFault ..)
    | none =>
      have hle := (s.rangeFault_none_iff x.val).1 hrange
      exact bounded_of_next hexec (execLdMemVx_of_none hrange)
        (h.write_advance hfetch (by rw [s.regBytes_length]; omega) rfl rfl rfl)
  | ldVxMem x =>
    cases hrange : s.rangeFault x.val with
    | some a => exact bounded_of_next hexec (execLdVxMem_of_some hrange) (h.enterFault ..)
    | none => exact bounded_of_next hexec (execLdVxMem_of_none hrange) (h.of_advance hfetch (by decide) rfl rfl rfl)
  | _ =>
    cases hexec
    exact h.of_advance hfetch (k := 2#16) (by decide) rfl rfl rfl

/-- The end of a step touches the timers alone. -/
theorem State.Inv.finish {s : State} (h : s.Inv) : s.finish.Inv := by
  rcases s.finish_cases with e | e <;> rw [e]
  · exact { h with }
  · exact h

theorem exec_keeps_inv (i : Instr) {s t : State} (h : s.Inv) (hrun : s.halted = none) (hfetch : s.pc.toNat ≤ 0xFFE)
    (hexec : exec i s = .next t) : t.Inv := by
  have hbounds := exec_keeps_bounded i h.bounded hfetch hexec
  cases exec_ending i s with
  | completes d u hu hhalt _ =>
    cases hu.symm.trans hexec
    exact hbounds.inv_of_running (hhalt.trans hrun) (by simp)
  | blocks x _ _ hu =>
    cases hu.symm.trans hexec
    exact hbounds.inv_of_running hrun (by simp)
  | faults k n hu =>
    cases hu.symm.trans hexec
    exact h.bounded.enterFault_inv ..

/-- Settles O9: a halted core keeps its record, a fault on the fetch or the decode writes one, and what is fetched runs from
a pc at which its bounds hold. -/
theorem stepKeepsInvariant : Obligations.StepKeepsInvariant := by
  intro s t h hstep
  rcases step_cases hstep with ⟨r, hhalt, rfl⟩ | ⟨a, -, -, rfl⟩ | ⟨op, e, -, -, -, rfl⟩ |
    ⟨op, i, u, hrun, hfetch, -, hexec, rfl⟩
  · exact State.Bounded.inv_of_faulted (r := r) { h with } hhalt rfl (h.faultPc r hhalt)
  · exact h.bounded.enterFault_inv ..
  · exact h.bounded.enterFault_inv ..
  · exact (exec_keeps_inv i h hrun (State.fetchWord_ok_le hfetch) hexec).finish

end Sys2Proof.Machine

/-! PROOF. The step (40_step_cycle R102-R109, 60_exceptions R227): what it fetches, what it can answer, and that a fault is
precise. -/

namespace Sys2Proof.Machine

/-! ### What a step runs (R55, R103, R105) -/

/-- Two bytes decode to what the word they compose decodes to. -/
theorem decodeWord_of_decodeBytes {hi lo : Byte} {i : Instr} {rest : List Byte}
    (h : decodeBytes [hi, lo] = .ok (i, rest)) : decodeWord (composeWord hi lo) = .ok i := by
  cases hd : decodeWord (composeWord hi lo) with
  | ok j =>
    simp only [decodeBytes, hd] at h
    cases h
    rfl
  | error e => simp [decodeBytes, hd] at h

/-- Settles O17: the fetch composes the two bytes, and the step goes on with what they decode to. -/
theorem stepRunsDecodedInstruction : Obligations.StepRunsDecodedInstruction :=
  fun s _ hrun hpc _ hdec =>
    step_of_ok (State.fetchDecode_ok_iff.2 ⟨hrun, _, s.fetchWord_of_le hpc, decodeWord_of_decodeBytes hdec⟩)

/-- A placed word is the word fetched: its high byte is stored at pc and its low byte after it. -/
theorem State.fetchWord_placeWord (s : State) (op : Word) (h : s.pc.toNat ≤ 0xFFE) :
    (s.placeWord op).fetchWord = .ok op := by
  have hhi := s.mem.read_writeList_inside s.pc.toNat 0 (wordBytes op) Nat.zero_lt_two
  have hlo := s.mem.read_writeList_inside s.pc.toNat 1 (wordBytes op) Nat.one_lt_two
  rw [State.fetchWord_of_le (s.placeWord op) h]
  exact congrArg Except.ok ((congrArg₂ composeWord hhi hlo).trans (composeWord_wordBytes op))

theorem decodeWord_of_decodeTableWord {w : Nat} {i : Instr} (h : decodeTableWord 16 w = some i) :
    decodeWord (BitVec.ofNat 16 (w % 2 ^ 16)) = .ok i := by
  unfold decodeTableWord at h
  split at h
  · rename_i j rest hj
    cases h
    rw [← composeWord_wordBytes (BitVec.ofNat 16 _)]
    exact decodeWord_of_decodeBytes hj
  · cases h

/-- Settles O24: placing writes the word's two bytes where the fetch reads them, and clears the halt. -/
theorem placedWordIsFetched : Obligations.PlacedWordIsFetched :=
  fun s _ _ hpc hdec =>
    State.fetchDecode_ok_iff.2 ⟨rfl, _, s.fetchWord_placeWord _ hpc, decodeWord_of_decodeTableWord hdec⟩

/-! ### The outcomes of a step (R106, R113, R227) -/

/-- What a step answers: Done from a running core, Blocked at an Fx0A, or Faulted, either because the core is halted or
because this step took the fault. -/
inductive StepEnding (s t : State) : Prop where
  | done (d : Bool) (ho : t.outcome = some (.done d)) (hs : s.halted = none) (ht : t.halted = none)
  | blocked (x : RegIdx) (hi : s.Holds (.ldVxK x)) (hk : s.pressedKeys = []) (h : t = s.setOutcome .blocked)
  | halted (r : FaultRecord) (hs : s.halted = some r) (h : t = s.stayHalted r)
  | faulted (k : FaultKind) (op : Option Word) (n : Nat) (hs : s.halted = none) (h : t = s.enterFault k op n)

theorem step_ending {s t : State} (h : step s = .next t) : StepEnding s t := by
  rcases step_cases h with ⟨r, hhalt, ht⟩ | ⟨a, hrun, -, ht⟩ | ⟨op, e, hrun, -, -, ht⟩ |
    ⟨op, i, u, hrun, hfetch, hdec, hexec, ht⟩
  · exact .halted r hhalt ht
  · exact .faulted _ _ _ hrun ht
  · exact .faulted _ _ _ hrun ht
  · cases exec_ending i s with
    | completes d v hv hhalt _ =>
      cases hv.symm.trans hexec
      rw [State.finish_of_done rfl] at ht
      exact .done d (ht ▸ rfl) hrun (ht ▸ hhalt.trans hrun)
    | blocks x hi hk hv =>
      cases hv.symm.trans hexec
      exact .blocked x ⟨op, hfetch, hi ▸ hdec⟩ hk ht
    | faults k n hv =>
      cases hv.symm.trans hexec
      exact .faulted _ _ _ hrun ht

theorem frame_stayHalted (s : State) (r : FaultRecord) : Frame [] [.outcome] s (s.stayHalted r) :=
  frame_setOutcome s (.faulted r)

/-- Settles O19: the endings of a step, a halted core's repeated record counting as Faulted. -/
theorem stepHasThreeOutcomes : Obligations.StepHasThreeOutcomes := by
  refine fun s => ⟨s.stepNext, step_eq_stepNext s, ?_⟩
  generalize ht : s.stepNext = t
  cases step_ending (ht ▸ step_eq_stepNext s) with
  | done d ho hs ht => exact .inl ⟨d, ho, hs, ht⟩
  | blocked x hi hk h =>
    subst h
    exact .inr (.inl ⟨rfl, ⟨x, hi⟩, s.pressedKeys_eq_nil.1 hk, frame_setOutcome s _⟩)
  | halted r hs h =>
    subst h
    exact .inr (.inr ⟨r, rfl, hs, (frame_stayHalted s r).mono (by simp) (by simp)⟩)
  | faulted k op n hs h =>
    subst h
    exact .inr (.inr ⟨_, rfl, rfl, frame_enterFault s k op n⟩)

theorem step_fault_precise {s t : State} {r : FaultRecord} (hstep : step s = .next t)
    (ho : t.outcome = some (.faulted r)) :
    t.halted = some r ∧ Frame [] [.halted, .outcome] s t ∧ (s.halted = none → r.pc = s.pc) := by
  cases step_ending hstep with
  | done d hd _ _ => cases hd.symm.trans ho
  | blocked x _ _ h =>
    subst h
    cases ho
  | halted q hs h =>
    subst h
    cases ho
    exact ⟨hs, (frame_stayHalted s r).mono (by simp) (by simp), fun hrun => by simp [hs] at hrun⟩
  | faulted k op n hs h =>
    subst h
    cases ho
    exact ⟨rfl, frame_enterFault s k op n, fun _ => rfl⟩

theorem exec_fault_precise {i : Instr} {s t : State} {r : FaultRecord} (hexec : exec i s = .next t)
    (ho : t.outcome = some (.faulted r)) :
    t.halted = some r ∧ r.pc = s.pc ∧ r.op = some (encode i) ∧ Frame [] [.halted, .outcome] s t ∧
      finishStep (exec i s) = .next t := by
  have hfinish : finishStep (exec i s) = .next t := by
    rw [hexec, finishStep_next, State.finish_of_faulted ho]
  cases exec_ending i s with
  | completes d u h _ _ =>
    cases h.symm.trans hexec
    cases ho
  | blocks x _ _ h =>
    cases h.symm.trans hexec
    cases ho
  | faults k n h =>
    cases h.symm.trans hexec
    cases ho
    exact ⟨rfl, rfl, rfl, frame_enterFault s k _ n, hfinish⟩

/-- Settles O20: taking a fault writes the record and the outcome alone, and no tick follows. -/
theorem faultsArePrecise : Obligations.FaultsArePrecise :=
  ⟨fun _ _ _ => step_fault_precise, fun _ _ _ _ => exec_fault_precise⟩

end Sys2Proof.Machine

/-! PROOF. The free draws and the timers (42_arithmetic R152, 45_input_timer R202-R205, 70_reset_and_hazards R257): the frames
of a draw and of a timer write, a whole step of an instruction that completes, and the obligations about them. -/

namespace Sys2Proof.Machine

/-! ### Frames -/

theorem frame_takeDraw (s : State) : Frame [] [.draws] s s.takeDraw :=
  ⟨fun _ _ => rfl, fun p hp => by cases p <;> simp_all [Part.same]⟩

theorem frame_setDt (s : State) (w : Byte) : Frame [] [.dt] s (s.setDt w) :=
  ⟨fun _ _ => rfl, fun p hp => by cases p <;> simp_all [Part.same]⟩

theorem frame_setSt (s : State) (w : Byte) : Frame [] [.st] s (s.setSt w) :=
  ⟨fun _ _ => rfl, fun p hp => by cases p <;> simp_all [Part.same]⟩

theorem frame_takeDraw_setReg (s : State) (x : RegIdx) (w : Byte) : Frame [x] [.draws] s (s.takeDraw.setReg x w) :=
  (frame_takeDraw s).compose (frame_setReg _ x w) (by simp) (by simp)

/-! ### The random byte (R152) -/

/-- Settles O39: the draw is taken, then Vx is written with the draw's bits that kk lets through. -/
theorem randomIsMaskedDraw : Obligations.RandomIsMaskedDraw := by
  refine fun x kk s => ⟨by simp [decodeWord], completes_of_advance rfl (frame_takeDraw_setReg s x _) ⟨rfl, rfl, fun k => ?_⟩⟩
  simp

/-! ### Waiting for a key (R203) -/

/-- A register holds the number of a key exactly. -/
theorem keyByte_toNat (k : RegIdx) : (BitVec.ofNat 8 k.val).toNat = k.val := by
  have hk : k.val < 16 := k.isLt
  rw [BitVec.toNat_ofNat]
  exact Nat.mod_eq_of_lt (by omega)

/-- Any key of the list is the choice of some draw: of its own index. -/
theorem pickKey_surjective {q k : RegIdx} {ks : List RegIdx} (h : q ∈ k :: ks) : ∃ d, pickKey d k ks = q := by
  obtain ⟨d, hd, hq⟩ := List.getElem_of_mem h
  refine ⟨d, ?_⟩
  rw [pickKey, Nat.mod_eq_of_lt hd, List.getD_eq_getElem _ _ hd, hq]

theorem completes_ldVxK {x k : RegIdx} {ks : List RegIdx} {s : State} (h : s.pressedKeys = k :: ks) :
    Completes (.ldVxK x) s false [x] [.pc, .draws] (fun t =>
      t.pc = s.pc + 2#16 ∧ t.draws = s.draws + 1 ∧ (t.reg x).toNat = (pickKey (Config.keyChoice s.draws) k ks).val) := by
  refine completes_of_advance (execLdVxK_of_cons h) (frame_takeDraw_setReg s x _) ⟨rfl, rfl, ?_⟩
  simpa using keyByte_toNat _

/-- Settles O52: the list of pressed keys is empty, and the step blocks, or the draw picks one of its keys. -/
theorem waitForKeyBlocksOrReadsAPressedKey : Obligations.WaitForKeyBlocksOrReadsAPressedKey := by
  refine fun x s => ⟨decodeWord_familyF x 0x0A#8, fun hnone => ?_, fun ⟨q, hq⟩ => ?_, fun k ks hkeys q hq => ?_⟩
  · exact ⟨_, execLdVxK_of_nil (s.pressedKeys_eq_nil.2 hnone), rfl, frame_setOutcome s .blocked⟩
  · cases hkeys : s.pressedKeys with
    | nil => simp [s.pressedKeys_eq_nil.1 hkeys q] at hq
    | cons k ks =>
      obtain ⟨t, hexec, ho, hframe, hpc, hdraws, hreg⟩ := completes_ldVxK (x := x) hkeys
      have hpressed : s.key (pickKey (Config.keyChoice s.draws) k ks) = true :=
        (s.mem_pressedKeys _).1 (hkeys ▸ pickKey_mem _ k ks)
      refine ⟨t, hexec, ho, hframe, ⟨_, hpressed, hreg⟩, hpc, hdraws, fun k' ks' h => ?_⟩
      cases h
      exact hreg
  · exact pickKey_surjective (hkeys ▸ (s.mem_pressedKeys q).2 hq)

/-! ### Timers (R202, R204, R205) -/

theorem exec_ldVxDt (x : RegIdx) (s : State) : exec (.ldVxDt x) s = complete false ((s.setReg x s.dt).advance 2#16) := rfl

theorem exec_ldDtVx (x : RegIdx) (s : State) : exec (.ldDtVx x) s = complete false ((s.setDt (s.reg x)).advance 2#16) := rfl

theorem exec_ldStVx (x : RegIdx) (s : State) : exec (.ldStVx x) s = complete false ((s.setSt (s.reg x)).advance 2#16) := rfl

theorem finishStep_complete (d : Bool) (u : State) : finishStep (complete d u) = .next (u.setOutcome (.done d)).tick :=
  rfl

/-- The tone sounds after a tick exactly when the timer was above 1 before it (R100, R205). -/
theorem tone_of_tickByte {s : State} {b : Byte} (h : s.st = tickByte b) : s.tone = decide (1 < b.toNat) := by
  rw [State.tone, h, Bool.eq_iff_iff, bne_iff_ne, decide_eq_true_iff, ← BitVec.toNat_inj.ne, tickByte_toNat]
  simp only [BitVec.toNat_ofNat]
  omega

/-- Settles O51: each transfer is one write and the advance of pc; the tick of the same step follows it. -/
theorem timerTransfers : Obligations.TimerTransfers := by
  refine fun x s => ⟨decodeWord_familyF x 0x07#8, decodeWord_familyF x 0x15#8, decodeWord_familyF x 0x18#8,
    completes_of_advance (exec_ldVxDt x s) (frame_setReg s x _) ⟨by simp, rfl⟩,
    completes_of_advance (exec_ldDtVx x s) (frame_setDt s _) ⟨rfl, rfl⟩,
    completes_of_advance (exec_ldStVx x s) (frame_setSt s _) ⟨rfl, rfl⟩, ⟨_, rfl, ?_, ?_⟩, ⟨_, rfl, ?_⟩, ⟨_, rfl, ?_, ?_⟩⟩
  · exact s.reg_setReg_same x s.dt
  · exact tickByte_toNat s.dt
  · exact tickByte_toNat (s.reg x)
  · exact tickByte_toNat (s.reg x)
  · exact tone_of_tickByte rfl

/-- A step whose instruction completes ends in the state it wrote, ticked. -/
theorem step_of_complete {i : Instr} {s u : State} {d : Bool} (hfetch : s.fetchDecode = .ok i)
    (hexec : exec i s = complete d u) : step s = .next (u.setOutcome (.done d)).tick := by
  rw [step_of_ok hfetch, hexec, finishStep_complete]

/-- Settles O53: the first step ends with DT ticked once from Vx, which the second reads and ticks again. -/
theorem delayTimerWriteThenRead : Obligations.DelayTimerWriteThenRead := by
  intro x y s t u hs hst ht htu
  cases (step_of_complete hs (exec_ldDtVx x s)).symm.trans hst
  cases (step_of_complete ht (exec_ldVxDt y _)).symm.trans htu
  have hfirst : (tickByte (s.reg x)).toNat = (s.reg x).toNat - 1 := tickByte_toNat _
  refine ⟨hfirst, ?_, ?_⟩
  · simpa using hfirst
  · exact (tickByte_toNat _).trans (congrArg (· - 1) hfirst)

end Sys2Proof.Machine

/-! PROOF. What each instruction can write, said once as a table (10_state R21-R30, 20_memory R51, 60_exceptions R220); that
no meaning writes outside its row of it; and the obligations about the writers of each register and part. -/

namespace Sys2Proof.Machine

/-! ### The table of writers -/

/-- The general registers an instruction can write: Vx, VF as a flag, or V0..Vx. -/
def writtenRegs : Instr → List RegIdx
  | .ldByte x _ | .addByte x _ | .rnd x _ => [x]
  | .ldReg x _ | .orReg x _ | .andReg x _ | .xorReg x _ => [x]
  | .ldVxDt x | .ldVxK x => [x]
  | .addReg x _ | .subReg x _ | .shr x _ | .subn x _ | .shl x _ => [x, 15]
  | .drw _ _ _ | .addI _ => [15]
  | .ldVxMem x => regsUpTo x
  | _ => []

/-- The other parts it can write, `halted` where it can take a fault. -/
def writtenParts : Instr → List Part
  | .cls => [.outcome, .pc, .fb]
  | .drw _ _ _ => [.outcome, .halted, .pc, .fb]
  | .ret => [.outcome, .halted, .pc, .sp]
  | .call _ => [.outcome, .halted, .pc, .sp, .stack]
  | .skp _ | .sknp _ => [.outcome, .halted, .pc]
  | .rnd _ _ | .ldVxK _ => [.outcome, .pc, .draws]
  | .ldI _ | .addI _ | .ldF _ => [.outcome, .pc, .i]
  | .ldDtVx _ => [.outcome, .pc, .dt]
  | .ldStVx _ => [.outcome, .pc, .st]
  | .ldB _ => [.outcome, .halted, .pc, .mem]
  | .ldMemVx _ => [.outcome, .halted, .pc, .i, .mem]
  | .ldVxMem _ => [.outcome, .halted, .pc, .i]
  | _ => [.outcome, .pc]

/-- The row of the table holds of what the instruction answers. -/
def WritesWithin (i : Instr) (s : State) : Prop :=
  ∀ t, exec i s = .next t → Frame (writtenRegs i) (writtenParts i) s t

/-! ### No meaning writes outside its row -/

theorem Completes.writesWithin {i : Instr} {s : State} {d : Bool} {rs : List RegIdx} {ps : List Part} {post : State → Prop}
    (h : Completes i s d rs ps post) (hr : rs ⊆ writtenRegs i) (hp : .outcome :: ps ⊆ writtenParts i) :
    WritesWithin i s := by
  intro t hexec
  obtain ⟨u, hu, -, hframe, -⟩ := h
  cases hu.symm.trans hexec
  exact hframe.mono (fun _ hz => hr hz) (fun _ hq => hp hq)

section Shapes

variable {i : Instr} {s : State} {x : RegIdx} {w : Byte}

theorem writesWithin_writeReg (h : exec i s = writeReg x w s) (hr : [x] ⊆ writtenRegs i)
    (hp : [.outcome, .pc] ⊆ writtenParts i) : WritesWithin i s :=
  (completes_of_writeReg (post := fun _ => True) h fun _ _ _ => trivial).writesWithin hr hp

theorem writesWithin_writeRegFlag {flag : Byte} (h : exec i s = writeRegFlag x w flag s)
    (hr : [x, 15] ⊆ writtenRegs i) (hp : [.outcome, .pc] ⊆ writtenParts i) : WritesWithin i s :=
  (completes_of_writeRegFlag h rfl rfl).writesWithin hr hp

theorem writesWithin_shiftReg {mode : Config.VfAliasMode} {flag : Byte} {shift : Byte → Byte}
    (h : exec i s = shiftReg mode x flag shift s) (hr : [x, 15] ⊆ writtenRegs i)
    (hp : [.outcome, .pc] ⊆ writtenParts i) : WritesWithin i s :=
  (completes_of_shiftReg (post := fun _ => True) h fun _ _ _ _ => trivial).writesWithin hr hp

theorem writesWithin_skipIf {b : Bool} (h : exec i s = complete false (s.skipIf b))
    (hp : [.outcome, .pc] ⊆ writtenParts i) : WritesWithin i s :=
  (completes_of_skip h Iff.rfl).writesWithin (List.nil_subset _) hp

theorem writesWithin_complete {u : State} {d : Bool} {rs : List RegIdx} {ps : List Part} (h : exec i s = complete d u)
    (hframe : Frame rs ps s u) (hr : rs ⊆ writtenRegs i) (hp : .outcome :: ps ⊆ writtenParts i) : WritesWithin i s :=
  (completes_of_exec (post := fun _ => True) h hframe trivial).writesWithin hr hp

theorem writesWithin_advance {u : State} {rs : List RegIdx} {ps : List Part}
    (h : exec i s = complete false (u.advance 2#16)) (hframe : Frame rs ps s u) (hr : rs ⊆ writtenRegs i)
    (hp : .outcome :: .pc :: ps ⊆ writtenParts i) : WritesWithin i s :=
  (completes_of_advance (post := fun _ => True) h hframe trivial).writesWithin hr hp

theorem writesWithin_raise {k : FaultKind} {n : Nat} (h : exec i s = raise k i n s)
    (hp : [.halted, .outcome] ⊆ writtenParts i) : WritesWithin i s := by
  intro t hexec
  cases h.symm.trans hexec
  exact (frame_enterFault s k _ n).mono (fun _ hz => nomatch hz) (fun _ hq => hp hq)

end Shapes

theorem frame_draw (s : State) (f : Framebuffer) (w : Byte) (k : Word) :
    Frame [15] [.pc, .fb] s (((s.setFb f).setReg 15 w).advance k) :=
  ((frame_setFb s f).compose (frame_setReg _ 15 w) (rs := [15]) (ps := [.fb]) (by simp) (by simp)).compose
    (frame_advance _ k) (by simp) (by simp)

theorem drw_writesWithin (x y : RegIdx) (n : Nat) (s : State) : WritesWithin (.drw x y n) s := by
  cases h : s.scanRows (s.drawCoord x) (s.drawCoord y) (List.range n) with
  | error e => exact writesWithin_raise (execDrw_of_error h) (by simp [writtenParts])
  | ok cells =>
    exact writesWithin_complete (execDrw_of_ok h) (frame_draw s _ _ _) (by simp [writtenRegs]) (by simp [writtenParts])

theorem exec_writesWithin (i : Instr) (s : State) : WritesWithin i s := by
  cases i with
  | cls => exact (clearTurnsEveryCellOff.2 s).writesWithin (by simp) (by simp [writtenParts])
  | ret =>
    obtain ⟨hreturn, -⟩ := returnResumesAfterCall.2 s
    rcases Nat.eq_zero_or_pos s.sp.val with hzero | hpos
    · exact writesWithin_raise (execRet_of_zero hzero) (by simp [writtenParts])
    · exact (hreturn hpos).writesWithin (by simp) (by simp [writtenParts])
  | jp nnn | jpV0 nnn => exact (completes_of_jump rfl rfl).writesWithin (by simp) (by simp [writtenParts])
  | call nnn =>
    obtain ⟨-, hcall, -⟩ := callPushesItsOwnAddress nnn s
    by_cases hfree : s.sp.val < 16
    · exact (hcall hfree).writesWithin (by simp) (by simp [writtenParts])
    · exact writesWithin_raise (execCall_of_full hfree) (by simp [writtenParts])
  | seByte x kk | sneByte x kk | seReg x y | sneReg x y => exact writesWithin_skipIf rfl (by simp [writtenParts])
  | ldByte x kk | addByte x kk | ldReg x y | orReg x y | andReg x y | xorReg x y =>
    exact writesWithin_writeReg rfl (by simp [writtenRegs]) (by simp [writtenParts])
  | addReg x y | subReg x y | subn x y =>
    exact writesWithin_writeRegFlag rfl (by simp [writtenRegs]) (by simp [writtenParts])
  | shr x y => exact writesWithin_shiftReg (exec_shr x y s) (by simp [writtenRegs]) (by simp [writtenParts])
  | shl x y => exact writesWithin_shiftReg (exec_shl x y s) (by simp [writtenRegs]) (by simp [writtenParts])
  | ldI nnn | ldF x => exact writesWithin_advance rfl (frame_setI s _) (by simp) (by simp [writtenParts])
  | rnd x kk =>
    exact writesWithin_advance rfl (frame_takeDraw_setReg s x _) (by simp [writtenRegs]) (by simp [writtenParts])
  | drw x y n => exact drw_writesWithin x y n s
  | skp x =>
    cases h : keyIndex (s.reg x) with
    | none => exact writesWithin_raise (execSkp_of_none h) (by simp [writtenParts])
    | some k => exact writesWithin_skipIf (execSkp_of_key h) (by simp [writtenParts])
  | sknp x =>
    cases h : keyIndex (s.reg x) with
    | none => exact writesWithin_raise (execSknp_of_none h) (by simp [writtenParts])
    | some k => exact writesWithin_skipIf (execSknp_of_key h) (by simp [writtenParts])
  | ldVxDt x =>
    exact writesWithin_advance (exec_ldVxDt x s) (frame_setReg s x _) (by simp [writtenRegs]) (by simp [writtenParts])
  | ldVxK x =>
    cases h : s.pressedKeys with
    | nil =>
      intro t hexec
      cases (execLdVxK_of_nil h).symm.trans hexec
      exact (frame_setOutcome s _).mono (by simp) (by simp [writtenParts])
    | cons k ks => exact (completes_ldVxK h).writesWithin (by simp [writtenRegs]) (by simp [writtenParts])
  | ldDtVx x => exact writesWithin_advance (exec_ldDtVx x s) (frame_setDt s _) (by simp) (by simp [writtenParts])
  | ldStVx x => exact writesWithin_advance (exec_ldStVx x s) (frame_setSt s _) (by simp) (by simp [writtenParts])
  | addI x => exact (indexAddSetsOverflow x s).2.writesWithin (by simp [writtenRegs]) (by simp [writtenParts])
  | ldB x =>
    obtain ⟨-, hstore, -⟩ := decimalDigitsStored x s
    rcases Nat.lt_or_ge 0xFFF (s.i.toNat + 2) with hgt | hle
    · exact writesWithin_raise (execLdB_of_some (s.rangeFault_of_gt hgt)) (by simp [writtenParts])
    · exact (hstore hle).writesWithin (by simp) (by simp [writtenParts])
  | ldMemVx x =>
    obtain ⟨-, hstore, -⟩ := registersStored x s
    rcases Nat.lt_or_ge 0xFFF (s.i.toNat + x.val) with hgt | hle
    · exact writesWithin_raise (execLdMemVx_of_some (s.rangeFault_of_gt hgt)) (by simp [writtenParts])
    · exact (hstore hle).writesWithin (by simp) (by simp [writtenParts])
  | ldVxMem x =>
    obtain ⟨-, hload, -⟩ := registersLoaded x s
    rcases Nat.lt_or_ge 0xFFF (s.i.toNat + x.val) with hgt | hle
    · exact writesWithin_raise (execLdVxMem_of_some (s.rangeFault_of_gt hgt)) (by simp [writtenParts])
    · exact (hload hle).writesWithin (by simp [writtenRegs]) (by simp [writtenParts])

/-! ### Who can have written what changed -/

section Changed

variable {i : Instr} {s t : State} (hexec : exec i s = .next t)
include hexec

theorem reg_written_of_ne {z : RegIdx} (h : t.reg z ≠ s.reg z) : z ∈ writtenRegs i := by
  by_contra hz
  exact h ((exec_writesWithin i s t hexec).regsKept z hz)

theorem part_written_of_not_same {p : Part} (h : ¬ p.same s t) : p ∈ writtenParts i := by
  by_contra hp
  exact h ((exec_writesWithin i s t hexec).partsKept p hp)

end Changed

/-! ### The rows of the table that hold a part -/

section Rows

variable {i : Instr}

theorem fb_writer (h : .fb ∈ writtenParts i) : i = .cls ∨ ∃ x y n, i = .drw x y n := by
  cases i <;> simp [writtenParts] at h ⊢

theorem stack_writer (h : .stack ∈ writtenParts i) : ∃ nnn, i = .call nnn := by
  cases i <;> simp [writtenParts] at h ⊢

theorem sp_writer (h : .sp ∈ writtenParts i) : i = .ret ∨ ∃ nnn, i = .call nnn := by
  cases i <;> simp [writtenParts] at h ⊢

theorem i_writer (h : .i ∈ writtenParts i) :
    (∃ nnn, i = .ldI nnn) ∨ ∃ x, i = .addI x ∨ i = .ldF x ∨ i = .ldMemVx x ∨ i = .ldVxMem x := by
  cases i <;> simp [writtenParts] at h ⊢

theorem mem_writer (h : .mem ∈ writtenParts i) : ∃ x, i = .ldB x ∨ i = .ldMemVx x := by
  cases i <;> simp [writtenParts] at h ⊢

theorem dt_writer (h : .dt ∈ writtenParts i) : ∃ x, i = .ldDtVx x := by
  cases i <;> simp [writtenParts] at h ⊢

theorem st_writer (h : .st ∈ writtenParts i) : ∃ x, i = .ldStVx x := by
  cases i <;> simp [writtenParts] at h ⊢

theorem keys_not_written (i : Instr) : .keys ∉ writtenParts i := by
  cases i <;> simp [writtenParts]

theorem halted_writer (h : .halted ∈ writtenParts i) : i = .ret ∨ (∃ nnn, i = .call nnn) ∨ (∃ x y n, i = .drw x y n) ∨
    ∃ x, i = .skp x ∨ i = .sknp x ∨ i = .ldB x ∨ i = .ldMemVx x ∨ i = .ldVxMem x := by
  cases i <;> simp [writtenParts] at h ⊢

end Rows

/-- Settles O22: a part that changed is in the instruction's row, and each clause reads off whose rows hold it. -/
theorem writersOfDisplayStackIndexMemoryTimersKeys : Obligations.WritersOfDisplayStackIndexMemoryTimersKeys := by
  intro i s t hexec
  have written (p : Part) (h : ¬ p.same s t) : p ∈ writtenParts i := part_written_of_not_same hexec h
  exact ⟨fun h => fb_writer (written .fb h), fun h => stack_writer (written .stack h), fun h => sp_writer (written .sp h),
    fun h => i_writer (written .i h), fun ⟨a, ha⟩ => mem_writer (written .mem fun h => ha (h a)),
    fun h => dt_writer (written .dt h), fun h => st_writer (written .st h),
    (exec_writesWithin i s t hexec).partsKept .keys (keys_not_written i)⟩

theorem reg_writer {i : Instr} {z : RegIdx} (h : z ∈ writtenRegs i) :
    (∃ kk, i = .ldByte z kk ∨ i = .addByte z kk ∨ i = .rnd z kk) ∨
    (∃ y, i = .ldReg z y ∨ i = .orReg z y ∨ i = .andReg z y ∨ i = .xorReg z y ∨ i = .addReg z y ∨ i = .subReg z y ∨
      i = .shr z y ∨ i = .subn z y ∨ i = .shl z y) ∨
    i = .ldVxDt z ∨ i = .ldVxK z ∨ (∃ x, z.val ≤ x.val ∧ i = .ldVxMem x) ∨
    (z = 15 ∧ ((∃ x y, i = .addReg x y ∨ i = .subReg x y ∨ i = .shr x y ∨ i = .subn x y ∨ i = .shl x y) ∨
      (∃ x y n, i = .drw x y n) ∨ ∃ x, i = .addI x)) := by
  cases i with
  | addReg x y | subReg x y | shr x y | subn x y | shl x y =>
    have hz : z = x ∨ z = 15 := by simpa [writtenRegs] using h
    rcases hz with rfl | rfl <;> simp
  | _ => simp_all [writtenRegs]

/-- Settles O57: the same of the registers and of the halt. -/
theorem writersOfRegistersAndHalt : Obligations.WritersOfRegistersAndHalt :=
  fun _ _ _ hexec => ⟨fun _ h => reg_writer (reg_written_of_ne hexec h),
    fun h => halted_writer (part_written_of_not_same (p := .halted) hexec h)⟩

end Sys2Proof.Machine

/-! PROOF. Two runs compared: a state and the same one with another ST (10_state R28), a call and its return (95_test_vectors
S8), a store of registers and a load of them (43_index_memory R174, R175). -/

namespace Sys2Proof.Machine

/-! ### ST is not read (R28) -/

theorem State.scanRows_setSt (s : State) (w : Byte) (x y : Nat) (rows : List Nat) :
    (s.setSt w).scanRows x y rows = s.scanRows x y rows := by
  induction rows with
  | nil => rfl
  | cons row rows ih =>
    have hrow : (s.setSt w).scanRow x y row = s.scanRow x y row := rfl
    simp only [State.scanRows, hrow, ih]

theorem State.skipIf_setSt (s : State) (w : Byte) (b : Bool) : (s.setSt w).skipIf b = (s.skipIf b).setSt w := by
  cases b <;> rfl

/-- Two answers to compare: the instruction's own and the one it gives with another ST. -/
theorem exists_setSt_of_next {i : Instr} {s t u : State} {w w' : Byte} (hexec : exec i s = .next t)
    (h : exec i s = .next u) (h' : exec i (s.setSt w) = .next (u.setSt w')) :
    ∃ w', exec i (s.setSt w) = .next (t.setSt w') := by
  cases h.symm.trans hexec
  exact ⟨w', h'⟩

theorem exec_skipIf_setSt {i : Instr} {s t : State} {w : Byte} {b : Bool} (hexec : exec i s = .next t)
    (h : exec i s = complete false (s.skipIf b)) (h' : exec i (s.setSt w) = complete false ((s.setSt w).skipIf b)) :
    ∃ w', exec i (s.setSt w) = .next (t.setSt w') := by
  rw [s.skipIf_setSt] at h'
  exact exists_setSt_of_next (w' := w) hexec h h'

theorem execDrw_setSt {x y : RegIdx} {n : Nat} {s t : State} (w : Byte) (hexec : exec (.drw x y n) s = .next t) :
    ∃ w', exec (.drw x y n) (s.setSt w) = .next (t.setSt w') := by
  have hscan : (s.setSt w).scanRows ((s.setSt w).drawCoord x) ((s.setSt w).drawCoord y) (List.range n) =
      s.scanRows (s.drawCoord x) (s.drawCoord y) (List.range n) := s.scanRows_setSt w _ _ _
  cases h : s.scanRows (s.drawCoord x) (s.drawCoord y) (List.range n) with
  | error e => exact exists_setSt_of_next hexec (execDrw_of_error h) (execDrw_of_error (hscan.trans h))
  | ok cells => exact exists_setSt_of_next hexec (execDrw_of_ok h) (execDrw_of_ok (hscan.trans h))

/-- With another ST an instruction answers the same state, with some ST: no check and no written value depends on it. -/
theorem exec_setSt {i : Instr} {s t : State} (w : Byte) (hexec : exec i s = .next t) :
    ∃ w', exec i (s.setSt w) = .next (t.setSt w') := by
  cases i with
  | ret =>
    rcases Nat.eq_zero_or_pos s.sp.val with h | h
    · exact exists_setSt_of_next hexec (execRet_of_zero h) (execRet_of_zero (s := s.setSt w) h)
    · exact exists_setSt_of_next hexec (execRet_of_pos h) (execRet_of_pos (s := s.setSt w) h)
  | call nnn =>
    by_cases h : s.sp.val < 16
    · exact exists_setSt_of_next hexec (execCall_of_lt h) (execCall_of_lt (s := s.setSt w) h)
    · exact exists_setSt_of_next hexec (execCall_of_full h) (execCall_of_full (s := s.setSt w) h)
  | seByte x kk | sneByte x kk | seReg x y | sneReg x y => exact exec_skipIf_setSt hexec rfl rfl
  | drw x y n => exact execDrw_setSt w hexec
  | skp x =>
    cases h : keyIndex (s.reg x) with
    | none => exact exists_setSt_of_next hexec (execSkp_of_none h) (execSkp_of_none (s := s.setSt w) h)
    | some k => exact exec_skipIf_setSt hexec (execSkp_of_key h) (execSkp_of_key (s := s.setSt w) h)
  | sknp x =>
    cases h : keyIndex (s.reg x) with
    | none => exact exists_setSt_of_next hexec (execSknp_of_none h) (execSknp_of_none (s := s.setSt w) h)
    | some k => exact exec_skipIf_setSt hexec (execSknp_of_key h) (execSknp_of_key (s := s.setSt w) h)
  | ldVxK x =>
    cases h : s.pressedKeys with
    | nil => exact exists_setSt_of_next hexec (execLdVxK_of_nil h) (execLdVxK_of_nil (s := s.setSt w) h)
    | cons k ks => exact exists_setSt_of_next hexec (execLdVxK_of_cons h) (execLdVxK_of_cons (s := s.setSt w) h)
  | ldStVx x => exact exists_setSt_of_next (w' := s.reg x) hexec rfl rfl
  | ldB x =>
    cases h : s.rangeFault 2 with
    | some a => exact exists_setSt_of_next hexec (execLdB_of_some h) (execLdB_of_some (s := s.setSt w) h)
    | none => exact exists_setSt_of_next hexec (execLdB_of_none h) (execLdB_of_none (s := s.setSt w) h)
  | ldMemVx x =>
    cases h : s.rangeFault x.val with
    | some a => exact exists_setSt_of_next hexec (execLdMemVx_of_some h) (execLdMemVx_of_some (s := s.setSt w) h)
    | none => exact exists_setSt_of_next hexec (execLdMemVx_of_none h) (execLdMemVx_of_none (s := s.setSt w) h)
  | ldVxMem x =>
    cases h : s.rangeFault x.val with
    | some a => exact exists_setSt_of_next hexec (execLdVxMem_of_some h) (execLdVxMem_of_some (s := s.setSt w) h)
    | none => exact exists_setSt_of_next hexec (execLdVxMem_of_none h) (execLdVxMem_of_none (s := s.setSt w) h)
  | _ => exact exists_setSt_of_next (w' := w) hexec rfl rfl

theorem State.finish_setSt (s : State) (w : Byte) : ∃ w', (s.setSt w).finish = s.finish.setSt w' := by
  by_cases h : ∃ d, s.outcome = some (.done d)
  · obtain ⟨d, hd⟩ := h
    refine ⟨tickByte w, ?_⟩
    rw [State.finish_of_done hd, State.finish_of_done (s := s.setSt w) hd]
    rfl
  · have hnot : ∀ d, s.outcome ≠ some (.done d) := fun d hd => h ⟨d, hd⟩
    refine ⟨w, ?_⟩
    rw [State.finish_of_not_done hnot, State.finish_of_not_done (s := s.setSt w) hnot]

/-- The phases of a step in order: none of them reads ST. -/
theorem step_setSt {s t : State} (w : Byte) (h : step s = .next t) : ∃ w', step (s.setSt w) = .next (t.setSt w') := by
  rcases step_cases h with ⟨r, hhalt, rfl⟩ | ⟨a, hrun, hfetch, rfl⟩ | ⟨op, e, hrun, hfetch, hdec, rfl⟩ |
    ⟨op, i, u, hrun, hfetch, hdec, hexec, rfl⟩
  · exact ⟨w, step_of_error (State.fetchDecode_of_halted (s := s.setSt w) hhalt)⟩
  · exact ⟨w, step_of_error (State.fetchDecode_of_fetch_error (s := s.setSt w) hrun hfetch)⟩
  · exact ⟨w, step_of_error (State.fetchDecode_of_decode_error (s := s.setSt w) hrun hfetch hdec)⟩
  · obtain ⟨w', hexec'⟩ := exec_setSt w hexec
    obtain ⟨w'', hfinish⟩ := u.finish_setSt w'
    refine ⟨w'', ?_⟩
    rw [step_of_ok (State.fetchDecode_ok_iff.2 ⟨hrun, op, hfetch, hdec⟩ : (s.setSt w).fetchDecode = .ok i), hexec',
      finishStep_next, hfinish]

/-- Settles O23: the two steps end in states that differ in ST alone. -/
theorem soundTimerIsNotReadable : Obligations.SoundTimerIsNotReadable := by
  intro s t w h
  obtain ⟨w', h'⟩ := step_setSt w h
  exact ⟨t.setSt w', h', frame_setSt t w'⟩

/-! ### Frames narrowed -/

/-- A part that a run brought back to its old value need not be listed. -/
theorem Frame.drop_part {rs : List RegIdx} {ps : List Part} {p : Part} {s t : State} (h : Frame rs (p :: ps) s t)
    (hp : p.same s t) : Frame rs ps s t :=
  ⟨h.regsKept, fun q hq => by
    by_cases e : q = p
    · exact e ▸ hp
    · exact h.partsKept q (by simp [e, hq])⟩

/-! ### A call and its return (R120, R122) -/

/-- Settles O31: the call leaves its own address in the slot the return reads, and the return brings SP back. -/
theorem callThenReturnRoundTrip : Obligations.CallThenReturnRoundTrip := by
  intro nnn s hfree
  obtain ⟨-, hcall, -⟩ := callPushesItsOwnAddress nnn s
  obtain ⟨t, ht, -, hframe, hslots, hsp, -⟩ := hcall hfree
  obtain ⟨hreturn, -⟩ := returnResumesAfterCall.2 t
  obtain ⟨u, hu, -, hframe', hsp', hpc⟩ := hreturn (by omega)
  have hstack : u.stack = t.stack := hframe'.partsKept .stack (by simp)
  have hspBack : u.sp = s.sp := Fin.ext (by omega)
  have hslot : t.stack[t.sp.val - 1] = s.pc := by
    have htop := hslots ⟨s.sp.val, hfree⟩
    rw [if_pos rfl] at htop
    simpa [hsp] using htop
  have hboth : Frame [] [.sp, .pc, .stack, .outcome] s u := hframe.compose hframe' (by simp) (by simp)
  refine ⟨t, u, ht, hu, hslot ▸ hpc, hboth.drop_part hspBack, fun j hj => ?_⟩
  rw [hstack, hslots j, if_neg hj]

/-! ### A store of registers and a load of them (R174, R175) -/

/-- Settles O45: the load reads the bytes the store wrote, since neither the registers nor I hold memory. -/
theorem storeThenLoadRegisters : Obligations.StoreThenLoadRegisters := by
  intro x s w hle
  obtain ⟨-, hstore, -⟩ := registersStored x s
  obtain ⟨t, ht, -, hframe, -, -, hstored, -⟩ := hstore hle
  obtain ⟨-, hload, -⟩ := registersLoaded x ({ t with v := w }.setI s.i)
  obtain ⟨u, hu, -, hframe', -, -, hloaded, habove⟩ := hload hle
  have hset : Frame (List.finRange 16) [.i] t ({ t with v := w }.setI s.i) :=
    ⟨fun z hz => absurd (List.mem_finRange z) hz, fun p hp => by cases p <;> simp_all [Part.same]⟩
  have hboth : Frame (List.finRange 16) [.pc, .i, .mem, .outcome] s u :=
    (hframe.compose hset (rs := List.finRange 16) (ps := [.pc, .i, .mem, .outcome]) (by simp) (by simp)).compose hframe'
      (by intro z _; exact List.mem_finRange z) (by simp)
  exact ⟨t, u, ht, hu, fun k hk => (hloaded k hk).trans (hstored k hk), habove, hboth⟩

end Sys2Proof.Machine

/-! PROOF. Dxyn (44_display R191, R192): what it writes once every check passes, which check fails first, drawing twice, and
the obligations about it. -/

namespace Sys2Proof.Machine

/-! ### The checks through -/

/-- Every row readable and every cell in range: the check phase answers the cells of the sprite. -/
theorem State.scanRows_of_sprite {s : State} {x y n : Nat} (hrows : ∀ row, row < n → s.i.toNat + row ≤ 0xFFF)
    (hcells : ∀ j, s.SpriteSets x y n j → j ≤ 2047) :
    s.scanRows x y (List.range n) = .ok (spriteRowsCells s x y (List.range n)) :=
  State.scanRows_ok (fun row h => hrows row (List.mem_range.1 h))
    (fun j h => hcells j ((mem_spriteRowsCells_range s x y n j).1 h))

theorem flagByte_eq_one (b : Bool) : flagByte b = 1#8 ↔ b = true := by
  cases b <;> decide

theorem flagByte_zero_or_one (b : Bool) : flagByte b = 0#8 ∨ flagByte b = 1#8 := by
  cases b <;> decide

/-- The write phase over a sprite in range: each of its cells is flipped and no other. -/
theorem drawCells_sprite_pixel {s : State} {x y n : Nat} (hcells : ∀ j, s.SpriteSets x y n j → j ≤ 2047) (j : Nat) :
    (drawCells s.fb (spriteRowsCells s x y (List.range n))).1.getLsbD j = true ↔
      ¬ (s.pixel j = true ↔ s.SpriteSets x y n j) := by
  rw [drawCells_cell _ _ (spriteRowsCells_nodup s x y n)
    (fun k h => hcells k ((mem_spriteRowsCells_range s x y n k).1 h)), ← mem_spriteRowsCells_range, State.pixel]
  cases s.fb.getLsbD j <;> simp

/-- And it notes a collision exactly when one of them was on. -/
theorem drawCells_sprite_collision {s : State} {x y n : Nat} (hcells : ∀ j, s.SpriteSets x y n j → j ≤ 2047) :
    (drawCells s.fb (spriteRowsCells s x y (List.range n))).2 = true ↔
      ∃ j, s.SpriteSets x y n j ∧ s.pixel j = true := by
  rw [drawCells_collision _ _ (spriteRowsCells_nodup s x y n)
    (fun k h => hcells k ((mem_spriteRowsCells_range s x y n k).1 h)), List.any_eq_true]
  simp only [mem_spriteRowsCells_range, State.pixel]

/-- Settles O47: the check phase passes, and the write phase flips the sprite's cells, which are distinct. -/
theorem drawFlipsTheSpriteCells : Obligations.DrawFlipsTheSpriteCells := by
  refine fun x y n s => ⟨fun hn => decodeWord_encode (i := .drw x y n) (decide_eq_true hn), fun hrows hcells => ?_⟩
  refine completes_of_exec (execDrw_of_ok (State.scanRows_of_sprite hrows hcells)) (frame_draw s _ _ _)
    ⟨rfl, drawCells_sprite_pixel hcells, ?_, ?_⟩
  · simpa [flagByte_eq_one] using drawCells_sprite_collision hcells
  · simpa using flagByte_zero_or_one _

/-! ### The first failing check -/

theorem range_eq_append_cons {row n : Nat} (h : row < n) : ∃ rest, List.range n = List.range row ++ row :: rest := by
  obtain ⟨k, rfl⟩ : ∃ k, n = row + (k + 1) := ⟨n - row - 1, by omega⟩
  refine ⟨((List.range k).map Nat.succ).map (row + ·), ?_⟩
  rw [List.range_add, List.range_succ_eq_map]
  rfl

/-- Dxyn takes the fault of a row's check when the rows before it pass theirs. -/
theorem faults_of_scanRow {x y : RegIdx} {n row : Nat} {s : State} {e : FaultKind × Nat} (hrow : row < n)
    (hrows : ∀ r, r < row → s.i.toNat + r ≤ 0xFFF)
    (hcells : ∀ j, s.SpriteSets (s.drawCoord x) (s.drawCoord y) row j → j ≤ 2047)
    (he : s.scanRow (s.drawCoord x) (s.drawCoord y) row = .error e) : Faults (.drw x y n) s e.1 e.2 := by
  obtain ⟨rest, hrange⟩ := range_eq_append_cons hrow
  have hscan : s.scanRows (s.drawCoord x) (s.drawCoord y) (List.range n) = .error e := by
    rw [hrange]
    exact State.scanRows_error (fun r h => hrows r (List.mem_range.1 h))
      (fun j h => hcells j ((mem_spriteRowsCells_range s _ _ row j).1 h)) he
  exact faults_of_exec (execDrw_of_error hscan)

theorem State.scanRow_unreadable {s : State} {x y row : Nat} (h : 0xFFF < s.i.toNat + row) :
    s.scanRow x y row = .error (.memOutOfRange, s.i.toNat + row) := by
  rw [State.scanRow, s.memRead_of_gt h]

theorem State.scanRow_out_of_range {s : State} {x y row j : Nat} (h : s.i.toNat + row ≤ 0xFFF)
    (hj : (spriteCells (s.mem.read (s.i.toNat + row)) x y row).find? (fun j => decide (Config.fbCells ≤ j)) = some j) :
    s.scanRow x y row = .error (.fbOutOfRange, j) := by
  rw [State.scanRow, s.memRead_of_le h]
  simp only [hj]

/-- Settles O48: the first failing row decides, by its memory read first and then by its first cell out of range. -/
theorem drawFaultsAtTheFirstFailingCheck : Obligations.DrawFaultsAtTheFirstFailingCheck := by
  refine fun x y n row s hrow hrows hcells => ⟨fun hgt => ?_, fun col hle hcol hbit hout hfirst => ?_⟩
  · exact faults_of_scanRow hrow hrows hcells (State.scanRow_unreadable hgt)
  · exact faults_of_scanRow hrow hrows hcells
      (State.scanRow_out_of_range hle (find_spriteCells_some hcol hbit hout hfirst))

/-! ### Drawing twice -/

/-- A Dxyn that completed passed its checks. -/
theorem sprite_in_range_of_done {x y : RegIdx} {n : Nat} {s t : State} {d : Bool}
    (hexec : exec (.drw x y n) s = .next t) (hdone : t.outcome = some (.done d)) :
    (∀ row, row < n → s.i.toNat + row ≤ 0xFFF) ∧
      ∀ j, s.SpriteSets (s.drawCoord x) (s.drawCoord y) n j → j ≤ 2047 := by
  cases hscan : s.scanRows (s.drawCoord x) (s.drawCoord y) (List.range n) with
  | error e =>
    cases (execDrw_of_error hscan).symm.trans hexec
    cases hdone
  | ok cells =>
    obtain ⟨hrows, rfl, hcells⟩ := State.scanRows_ok_inv hscan
    exact ⟨fun row h => hrows row (List.mem_range.2 h), fun j h => hcells j ((mem_spriteRowsCells_range s _ _ n j).2 h)⟩

theorem drawCoord_of_ne {s : State} {x : RegIdx} (h : x ≠ 15) : s.drawCoord x = (s.reg x).toNat := by
  unfold State.drawCoord
  cases vfAliasMode <;> simp [h]

/-- The sprite is read from memory at I, which a draw leaves alone. -/
theorem spriteSets_of_frame {rs : List RegIdx} {ps : List Part} {s t : State} (h : Frame rs ps s t) (hi : .i ∉ ps)
    (hmem : .mem ∉ ps) (x y n j : Nat) : t.SpriteSets x y n j ↔ s.SpriteSets x y n j := by
  have hbyte : ∀ a, t.mem.read a = s.mem.read a := h.partsKept .mem hmem
  have hindex : t.i = s.i := h.partsKept .i hi
  simp only [State.SpriteSets, hbyte, hindex]

/-- Settles O49: the second draw finds the same sprite at the same place, and flips the same cells back. -/
theorem drawTwiceRestoresTheFramebuffer : Obligations.DrawTwiceRestoresTheFramebuffer := by
  intro x y n s t hx hy hexec hdone
  obtain ⟨hrows, hcells⟩ := sprite_in_range_of_done hexec hdone
  obtain ⟨-, hdraw⟩ := drawFlipsTheSpriteCells x y n s
  obtain ⟨t', ht', -, hframe, -, hpixel, -⟩ := hdraw hrows hcells
  cases ht'.symm.trans hexec
  have hcoord (z : RegIdx) (hz : z ≠ 15) : t.drawCoord z = s.drawCoord z := by
    rw [drawCoord_of_ne hz, drawCoord_of_ne hz, hframe.regsKept z (by simpa using hz)]
  have hindex : t.i = s.i := hframe.partsKept .i (by simp)
  have hsprite (j : Nat) : t.SpriteSets (t.drawCoord x) (t.drawCoord y) n j ↔
      s.SpriteSets (s.drawCoord x) (s.drawCoord y) n j := by
    rw [hcoord x hx, hcoord y hy]
    exact spriteSets_of_frame hframe (by simp) (by simp) _ _ n j
  obtain ⟨-, hdrawAgain⟩ := drawFlipsTheSpriteCells x y n t
  obtain ⟨u, hu, hudone, -, -, hpixelAgain, hflag, -⟩ :=
    hdrawAgain (hindex ▸ hrows) (fun j h => hcells j ((hsprite j).1 h))
  refine ⟨u, hu, hudone, fun j => ?_, fun hblank => ?_⟩
  · rw [Bool.eq_iff_iff, hpixelAgain, hpixel, hsprite]
    tauto
  · simp [hflag, hsprite, hpixel, hblank]

end Sys2Proof.Machine

/-! PROOF. Runs (70_reset_and_hazards R255, R261): what the end-of-run conditions depend on, that they exclude each other and
last, and the obligations about the end of a run. -/

namespace Sys2Proof.Machine

/-! ### What the conditions depend on -/

theorem State.fetchWord_congr {s t : State} (hpc : t.pc = s.pc) (hmem : ∀ a, t.mem.read a = s.mem.read a) :
    t.fetchWord = s.fetchWord := by
  simp only [State.fetchWord, State.memRead, hpc, hmem]

/-- The conditions read pc, memory, the halt and the keys alone. -/
theorem State.EndsBy.of_frame {rs : List RegIdx} {ps : List Part} {s t : State} {k : EndKind} (h : s.EndsBy k)
    (hframe : Frame rs ps s t) (hkept : ∀ p ∈ [Part.pc, .mem, .halted, .keys], p ∉ ps) : t.EndsBy k := by
  have hpc : t.pc = s.pc := hframe.partsKept .pc (hkept _ (by simp))
  have hmem : ∀ a, t.mem.read a = s.mem.read a := hframe.partsKept .mem (hkept _ (by simp))
  have hhalt : t.halted = s.halted := hframe.partsKept .halted (hkept _ (by simp))
  have hkeys : t.keys = s.keys := hframe.partsKept .keys (hkept _ (by simp))
  have hholds (i : Instr) : t.Holds i ↔ s.Holds i := by
    simp only [State.Holds, State.fetchWord_congr hpc hmem]
  have hpressed : t.pressedKeys = s.pressedKeys := by
    have hkey : t.key = s.key := funext fun q => by simp only [State.key, hkeys]
    rw [State.pressedKeys, State.pressedKeys, hkey]
  cases k <;> simpa only [State.EndsBy, hhalt, hpc, hholds, hpressed] using h

/-- On a running core the word at pc is what the step runs. -/
theorem State.Holds.fetchDecode {s : State} {i : Instr} (h : s.Holds i) (hrun : s.halted = none) :
    s.fetchDecode = .ok i :=
  State.fetchDecode_ok_iff.2 ⟨hrun, h⟩

/-! ### The conditions last -/

/-- A self-jump ends where it began, with the timers ticked. -/
theorem frame_selfJump {s : State} {nnn : Addr12} (h : zextAddr nnn = s.pc) :
    Frame [] [.dt, .st, .outcome] s ((s.jump (zextAddr nnn)).setOutcome (.done false)).tick := by
  have hjump : s.jump (zextAddr nnn) = s := by rw [h]; rfl
  rw [hjump]
  exact (frame_setOutcome s _).compose (frame_tick _) (by simp) (by simp)

/-- Settles O54: the step of each kind touches no part its condition reads. -/
theorem endsOfARunStay : Obligations.EndsOfARunStay := by
  intro s k h
  cases k with
  | fault =>
    obtain ⟨r, hr⟩ := Option.ne_none_iff_exists'.1 h
    exact ⟨_, step_of_error (State.fetchDecode_of_halted hr), h, frame_stayHalted s r⟩
  | selfJump =>
    have ⟨hrun, nnn, hholds, htarget⟩ := h
    have hframe := frame_selfJump htarget
    exact ⟨_, step_of_complete (hholds.fetchDecode hrun) rfl, h.of_frame hframe (by simp), hframe⟩
  | noKey =>
    have ⟨hrun, ⟨x, hholds⟩, hnone⟩ := h
    have hframe := frame_setOutcome s .blocked
    have hstep : step s = .next (s.setOutcome .blocked) := by
      rw [step_of_ok (hholds.fetchDecode hrun)]
      exact congrArg finishStep (execLdVxK_of_nil hnone)
    exact ⟨_, hstep, h.of_frame hframe (by simp), hframe, rfl⟩

/-! ### One end -/

/-- A halted core is at no other condition, and the word at pc is one instruction. -/
theorem State.EndsBy.unique {s : State} {k k' : EndKind} (h : s.EndsBy k) (h' : s.EndsBy k') : k = k' := by
  have jump_ne_wait (hjump : s.EndsBy .selfJump) (hwait : s.EndsBy .noKey) : False := by
    obtain ⟨-, nnn, hheld, -⟩ := hjump
    obtain ⟨-, ⟨x, hheld'⟩, -⟩ := hwait
    cases State.holds_unique hheld hheld'
  match k, k' with
  | .fault, .fault | .selfJump, .selfJump | .noKey, .noKey => rfl
  | .fault, .selfJump | .fault, .noKey => exact absurd h'.1 h
  | .selfJump, .fault | .noKey, .fault => exact absurd h.1 h'
  | .selfJump, .noKey => exact (jump_ne_wait h h').elim
  | .noKey, .selfJump => exact (jump_ne_wait h' h).elim

/-- A condition that holds with one keymap and not with another is that of Fx0A: the first has no key pressed, the second
one. -/
theorem State.endsBy_setKeys_changed {s : State} {next m : Vector Bool 16} {k : EndKind} (h : (s.setKeys next).EndsBy k)
    (h' : ¬ (s.setKeys m).EndsBy k) :
    k = .noKey ∧ (∀ q : Fin 16, next[q] = false) ∧ ∃ q : Fin 16, m[q] = true := by
  cases k with
  | fault | selfJump => exact absurd h h'
  | noKey =>
    obtain ⟨hrun, hwait, hnone⟩ := h
    refine ⟨rfl, (State.pressedKeys_eq_nil _).1 hnone, ?_⟩
    by_contra hno
    have hnone' : (s.setKeys m).pressedKeys = [] :=
      (State.pressedKeys_eq_nil _).2 fun q => Bool.eq_false_of_not_eq_true fun hq => hno ⟨q, hq⟩
    exact h' ⟨hrun, hwait, hnone'⟩

/-- Settles O55: the longer run saw the shorter one's last state with another keymap, and no condition held of it then. -/
theorem runEndsOnce : Obligations.RunEndsOnce := by
  refine ⟨fun s k k' => State.EndsBy.unique, fun s ks next m more next' k k' hend hend' => ?_⟩
  have hlater := hend'.first ks.length (by simp) (List.length_pos_iff.2 hend.stepped) k
  have hnext : (ks ++ m :: more)[ks.length]'(by simp) = m := by simp
  rw [List.take_left, hnext] at hlater
  exact State.endsBy_setKeys_changed hend.reached hlater

/-! ### A halted run -/

theorem frame_setKeys (s : State) (k : Vector Bool 16) : Frame [] [.keys] s (s.setKeys k) :=
  ⟨fun _ _ => rfl, fun p hp => by cases p <;> simp_all [Part.same]⟩

/-- Settles O56, by induction on the key writes: each is followed by a step of a halted core. -/
theorem haltedRunStaysHalted : Obligations.HaltedRunStaysHalted := by
  intro s r ks h
  induction ks generalizing s with
  | nil => exact ⟨h, (Frame.refl s).mono (by simp) (by simp)⟩
  | cons k ks ih =>
    have hstep : (s.setKeys k).stepNext = (s.setKeys k).stayHalted r := State.stepNext_of_halted h
    obtain ⟨hhalt, hframe⟩ := ih ((s.setKeys k).stayHalted r) h
    rw [State.runKeys_cons, hstep]
    refine ⟨hhalt, Frame.trans ?_ hframe⟩
    exact (frame_setKeys s k).compose (frame_stayHalted _ r) (by simp) (by simp)

/-! ### The first state at a condition -/

/-- After the first `n` of the key writes and steps, `n` not 0, a condition holds of the state seen with the keymap that comes
next on the schedule `ks`, `next`. -/
def State.ReachesAt (s : State) (ks : List (Vector Bool 16)) (next : Vector Bool 16) (n : Nat) : Prop :=
  0 < n ∧ ∃ m k, (ks ++ [next])[n]? = some m ∧ ((s.runKeys (ks.take n)).setKeys m).EndsBy k

/-- A run ends after the least number of steps at which a condition holds. -/
theorem State.runEnds_of_least {s : State} {ks : List (Vector Bool 16)} {next m : Vector Bool 16} {k : EndKind} {n : Nat}
    (hpos : 0 < n) (hle : n ≤ ks.length) (hends : ((s.runKeys (ks.take n)).setKeys m).EndsBy k)
    (hleast : ∀ j < n, ¬ s.ReachesAt ks next j) : s.RunEnds (ks.take n) m k where
  stepped := List.ne_nil_of_length_pos (by rw [List.length_take]; omega)
  reached := hends
  first j hj h0 other hother := by
    have hjn : j < n := by rw [List.length_take] at hj; omega
    have hkeymap : (ks ++ [next])[j]? = some (ks.take n)[j] := by
      rw [List.getElem_take, List.getElem?_append_left (by omega), List.getElem?_eq_getElem]
    rw [List.take_take, Nat.min_eq_left hjn.le] at hother
    exact hleast j hjn ⟨h0, _, other, hkeymap, hother⟩

/-- Settles O58: of the numbers of steps after which a condition holds, which the whole run is one of, take the least. -/
theorem runReachingAConditionEnds : Obligations.RunReachingAConditionEnds := by
  intro s ks next k hne hends
  classical
  have hwhole : s.ReachesAt ks next ks.length :=
    ⟨List.length_pos_iff.2 hne, next, k, by simp, by rwa [List.take_length]⟩
  have hexists : ∃ n, s.ReachesAt ks next n := ⟨_, hwhole⟩
  obtain ⟨hpos, m, k', hkeymap, hends'⟩ := Nat.find_spec hexists
  have hle : Nat.find hexists ≤ ks.length := Nat.find_min' hexists hwhole
  exact ⟨_, m, k', hpos, hle, hkeymap, State.runEnds_of_least hpos hle hends' fun j => Nat.find_min hexists⟩

end Sys2Proof.Machine
